-- ==== Sys2Proof/Word.lean ====
section
/-! DEFINITION. The word types of the model: the 64-bit value the two instructions move (R10), the 32-bit
instruction word (R41), the 5-bit register number (R43) and the 3-bit binary point (R11). -/

namespace Sys2Proof

/-- A 64-bit value: `ICC_BPR1_EL1` as it is read and written (R10), a general register (R23), the pc (R24). -/
abbrev Word := BitVec 64

/-- One A64 instruction word (R41). -/
abbrev InstrWord := BitVec 32

/-- A byte of an instruction word as it is laid out in memory (R37; used by the byte decoder only). -/
abbrev Byte := BitVec 8

/-- The register number `t` of `<Xt>`, 5 bits, 0 to 31 (R43). -/
abbrev RegNum := BitVec 5

/-- The field `BinaryPoint`, bits [2:0] of the register (R11). -/
abbrev BinaryPoint := BitVec 3

/-- The 8-bit interrupt priority that the binary point splits (R18). -/
abbrev Priority := BitVec 8

end Sys2Proof
end

