-- ==== Sys2Proof/Config.lean ====
section
/-! DEFINITION. What an implementation fixes (the parameters of R3), what the surrounding PE supplies (the
external-state interface of R22), and the free values: constants without a body, one for each value the spec
leaves open. -/

namespace Sys2Proof

/-- The four values of `PSTATE.EL` (R25). -/
inductive EL where
  | el0
  | el1
  | el2
  | el3
  deriving DecidableEq, Repr, Inhabited

/-- The number in the name of an Exception level: a higher one is more privileged (R8). -/
def EL.rank : EL → Nat
  | .el0 => 0
  | .el1 => 1
  | .el2 => 2
  | .el3 => 3

/-- The copies of the register (R13, R14): Secure, Non-secure, and the unbanked one without EL3. -/
inductive Copy where
  | s
  | ns
  | u
  deriving DecidableEq, Repr, Inhabited

/-- The two candidates for `BPR1_MIN_NOEL3` (R3, D8): `BPR0_MIN` or `BPR0_MIN + 1`. -/
inductive NoEl3Min where
  | bpr0Min
  | bpr0MinPlusOne
  deriving DecidableEq, Repr, Inhabited

/-- The implementation parameters of R3 that are data. No rule writes one (R27).
`EC_SYSTRAP` is `Machine.ecSysTrap`; `GroupPrioritySplit` is `Config.groupPrioritySplit`. -/
structure Params where
  /-- `HaveEL3`, the value of `HaveEL(EL3)`. -/
  haveEL3 : Bool
  /-- `BPR0_MIN`, 0 to 6 (D7). -/
  bpr0Min : Fin 7
  /-- `BPR1_MIN_NOEL3`, one of two candidates (D8). -/
  bpr1MinNoEl3 : NoEl3Min
  /-- `NOEL3_NONSECURE`: without EL3, whether accesses are Non-secure accesses (D9). -/
  noEl3NonSecure : Bool
  deriving DecidableEq, Repr, Inhabited

/-- The inputs of R22 that the rules only read, sampled at the step that executes the instruction. Each 1-bit
field is `true` for `'1'`. -/
structure Controls where
  /-- `PSTATE.EL`. -/
  el : EL
  /-- `ICC_SRE_EL1.SRE`, as the current Security state sees it (D21). -/
  iccSreEl1Sre : Bool
  /-- `ICC_SRE_EL2.SRE`. -/
  iccSreEl2Sre : Bool
  /-- `ICC_SRE_EL3.SRE`. -/
  iccSreEl3Sre : Bool
  /-- `ICH_HCR_EL2.TALL1`. -/
  ichHcrEl2Tall1 : Bool
  /-- `HCR_EL2.IMO`. -/
  hcrEl2Imo : Bool
  /-- `SCR_EL3.IRQ`. -/
  scrEl3Irq : Bool
  /-- `SCR_EL3.NS`. -/
  scrEl3Ns : Bool
  /-- `SCR_EL3.EEL2`. Listed by R22; no rule reads it (90_conflicts.md C3, log 28). -/
  scrEl3Eel2 : Bool
  /-- `ICC_CTLR_EL3.CBPR_EL1S`. -/
  iccCtlrEl3CbprEl1S : Bool
  /-- `ICC_CTLR_EL3.CBPR_EL1NS`. -/
  iccCtlrEl3CbprEl1Ns : Bool
  /-- `ICC_CTLR_EL1.CBPR`. -/
  iccCtlrEl1Cbpr : Bool
  /-- `EL2Enabled()`. -/
  el2Enabled : Bool
  /-- `ELUsingAArch32(EL2)`. -/
  el2UsingAArch32 : Bool
  /-- `ELUsingAArch32(EL3)`. -/
  el3UsingAArch32 : Bool
  deriving DecidableEq, Repr, Inhabited

/-- One value handed to an external register by its `write` (R20, R22). -/
inductive Handover where
  | iccBpr0 (v : Word)
  | icvBpr1 (v : Word)
  deriving DecidableEq, Repr

/-- The external registers of R22 that an access can read or write, as this hardware sees them. -/
structure ExtRegs where
  /-- What `ICC_BPR0_EL1.read()` gives now. -/
  iccBpr0 : Word
  /-- What `ICV_BPR1_EL1.read()` gives now. -/
  icvBpr1 : Word
  /-- `ICH_VMCR_EL2.VBPR1`. PRESUMED (log 17): its width of 3 bits is general knowledge (93 entry G6). -/
  ichVmcrVbpr1 : BinaryPoint
  /-- The values handed to the two `write` interfaces so far, newest first. DESIGN CHOICE (log 18), the model's own field: it shows
  that a write was performed (R20) and makes each free value below a fresh one. -/
  handed : List Handover
  deriving DecidableEq, Repr, Inhabited

/-- DESIGN CHOICE (log 16): free value (D12, U12): what `ICC_BPR0_EL1.read()` gives after `ICC_BPR0_EL1.write(v)`. -/
opaque Config.iccBpr0AfterWrite : Params → Controls → ExtRegs → Word → Word

/-- DESIGN CHOICE (log 17): free value (D11, U11): what `ICV_BPR1_EL1.read()` gives after `ICV_BPR1_EL1.write(v)`. -/
opaque Config.icvBpr1AfterWrite : Params → Controls → ExtRegs → Word → Word

/-- DESIGN CHOICE (log 17): free value (R20): `ICH_VMCR_EL2.VBPR1` after a virtual write of `v` has updated it. -/
opaque Config.vbpr1AfterWrite : Params → Controls → ExtRegs → Word → BinaryPoint

/-- DESIGN CHOICE (log 13): free value (R24): where the pc goes from a pc that `+ 4` would carry past the top of the address space. -/
opaque Config.pcPastTop : Word → Word

/-- DESIGN CHOICE (log 11): free value (R90): the draw of the reset that `State.reset` stands after, one for each copy. -/
opaque Config.resetDraw : Copy → BinaryPoint

/-- DESIGN CHOICE (log 24): free value: the open parameter `GroupPrioritySplit` (R3, R19): how many low bits of an 8-bit priority are the
subpriority field, for a value held in the given copy. -/
opaque Config.groupPrioritySplit : Copy → BinaryPoint → Fin 9

end Sys2Proof
end

