-- ==== Sys2Proof/Syntax.lean ====
section
/-! DEFINITION. The instructions: the two rows of the opcode table (R46), and the field tuple of the format
`SYSREG` (R41) that encodes them. -/

namespace Sys2Proof

/-- The instruction set: one constructor per row of the opcode table (R46). `t` is the number of `<Xt>`;
31 names `XZR` (R23, R43). -/
inductive Instr where
  /-- `MRS <Xt>, ICC_BPR1_EL1` (R60). -/
  | mrs (t : RegNum)
  /-- `MSR ICC_BPR1_EL1, <Xt>` (R61). -/
  | msr (t : RegNum)
  deriving DecidableEq, Repr

/-- The field tuple `(L, op0, op1, CRn, CRm, op2, Rt)` of a System register move (R41, D2). -/
structure SysregMove where
  /-- `L`: true for `MRS` (read), false for `MSR` (write). -/
  l : Bool
  op0 : BitVec 2
  op1 : BitVec 3
  crn : BitVec 4
  crm : BitVec 4
  op2 : BitVec 3
  rt : RegNum
  deriving DecidableEq, Repr

/-- The field values of each instruction, from the encoding table of R40. -/
def Instr.fields : Instr → SysregMove
  | .mrs t => { l := true, op0 := 0b11, op1 := 0b000, crn := 0b1100, crm := 0b1100, op2 := 0b011, rt := t }
  | .msr t => { l := false, op0 := 0b11, op1 := 0b000, crn := 0b1100, crm := 0b1100, op2 := 0b011, rt := t }

end Sys2Proof
end

