-- ==== Sys2Proof/WellFormed.lean ====
section
/-! DEFINITION. Which field tuples are instructions of this hardware: those whose System register address is
`ICC_BPR1_EL1`'s (R31, R40). Every value of `t` is valid (R45), so an `Instr` is well formed by its type. -/

namespace Sys2Proof

/-- `op0 = 0b11` (R40). -/
def SysregMove.op0Ok (f : SysregMove) : Bool := f.op0 == 0b11
/-- `op1 = 0b000` (R40). -/
def SysregMove.op1Ok (f : SysregMove) : Bool := f.op1 == 0b000
/-- `CRn = 0b1100` (R40). -/
def SysregMove.crnOk (f : SysregMove) : Bool := f.crn == 0b1100
/-- `CRm = 0b1100` (R40). -/
def SysregMove.crmOk (f : SysregMove) : Bool := f.crm == 0b1100
/-- `op2 = 0b011` (R40). -/
def SysregMove.op2Ok (f : SysregMove) : Bool := f.op2 == 0b011

/-- The tuple addresses `ICC_BPR1_EL1`: its five address fields are those of R31. -/
def SysregMove.wellFormed (f : SysregMove) : Bool :=
  f.op0Ok && f.op1Ok && f.crnOk && f.crmOk && f.op2Ok

/-- An instruction is well formed when its field tuple is. -/
def Instr.wellFormed (i : Instr) : Bool := i.fields.wellFormed

end Sys2Proof
end

