-- ==== Sys2Proof/Decode.lean ====
section
/-! DEFINITION. The decoder, from the field positions of R41, total on every word and rejecting by name (R45);
the encoder, from the same table; and the byte layout of R37. -/

namespace Sys2Proof

/-- Why the decoder gives no instruction. -/
inductive DecodeReject where
  /-- The word is no instruction of this hardware (R45: "not in scope"). -/
  | notInScope (w : InstrWord)
  /-- Fewer than the 4 bytes of an instruction (R42). -/
  | truncated (bytes : List Byte)
  deriving DecidableEq, Repr

/-- The decoder's answer on one word. -/
inductive Decoded where
  | instr (i : Instr)
  | rejected (r : DecodeReject)
  deriving DecidableEq, Repr

/-- The fields of a word in the format `SYSREG`, where its fixed bits [31:22] and [20] are those of R41.
Bit 20 is `op0[1]` and bit 19 is `op0[0]`. PRESUMED layout (decision D2, 93 entry G1; log 2). -/
def SysregMove.ofWord (w : InstrWord) : Option SysregMove :=
  if w.extractLsb' 22 10 = 0b1101010100 ∧ w.extractLsb' 20 1 = 1 then
    some { l := w.getLsbD 21, op0 := w.extractLsb' 19 2, op1 := w.extractLsb' 16 3,
           crn := w.extractLsb' 12 4, crm := w.extractLsb' 8 4, op2 := w.extractLsb' 5 3,
           rt := w.extractLsb' 0 5 }
  else none

/-- The instruction a well-formed field tuple stands for: `L` alone tells them apart (R40, R41). -/
def SysregMove.toInstr (f : SysregMove) : Instr :=
  if f.l then .mrs f.rt else .msr f.rt

/-- The decoder (R42, R45): a word that is not one of the two patterns is rejected as not in scope. -/
def decode (w : InstrWord) : Decoded :=
  match SysregMove.ofWord w with
  | some f => if f.wellFormed then .instr f.toInstr else .rejected (.notInScope w)
  | none => .rejected (.notInScope w)

/-- The word of a field tuple, field by field from bit 31 down (R41); bit 19 is `o0 = op0[0]`. -/
def SysregMove.toWord (f : SysregMove) : InstrWord :=
  (0b1101010100#10 ++ BitVec.ofBool f.l ++ 1#1 ++ f.op0.extractLsb' 0 1 ++ f.op1 ++ f.crn ++ f.crm ++ f.op2 ++ f.rt :
    BitVec (10 + 1 + 1 + 1 + 3 + 4 + 4 + 3 + 5))

/-- The encoder. -/
def encode (i : Instr) : InstrWord := i.fields.toWord

/-- The 4 bytes of a word, lowest address first. PRESUMED little-endian (R37, 93 entry G15; log 3). -/
def bytesOfWord (w : InstrWord) : List Byte :=
  [w.extractLsb' 0 8, w.extractLsb' 8 8, w.extractLsb' 16 8, w.extractLsb' 24 8]

/-- Decoding from bytes: the first 4 bytes are one word, and the rest of the list is given back. -/
def decodeBytes : List Byte → Decoded × List Byte
  | b0 :: b1 :: b2 :: b3 :: rest => (decode (b3 ++ b2 ++ b1 ++ b0 : BitVec (8 + 8 + 8 + 8)), rest)
  | bytes => (.rejected (.truncated bytes), bytes)

/-- The instruction the decoder reads from the word whose low `nbits` bits are those of `w`; the bits above
are 0. An instruction of this hardware is one 32-bit word, so more than 32 bits are none of it (R42). -/
def decodeTableWord (nbits w : Nat) : Option Instr :=
  if nbits ≤ 32 then
    match decode (BitVec.ofNat 32 (w % 2 ^ nbits)) with
    | .instr i => some i
    | .rejected _ => none
  else none

end Sys2Proof
end

