-- ==== Sys2Proof/Machine/Defaults.lean ====
section
/-! DEFINITION. The constant `EC_SYSTRAP` (R3), and the values the model names for what the spec gives no reset
value (R91): parameters, inputs, external registers, general registers and pc. Each is a DESIGN CHOICE of the
assumption log; no statement rests on one. -/

namespace Sys2Proof.Machine

/-- `EC_SYSTRAP`, the second argument of `AArch64.SystemAccessTrap` (R3, 90_conflicts.md C5). DESIGN CHOICE (log 15):
6 bits wide, the narrower of the widths R3 allows. -/
def ecSysTrap : BitVec 6 := 0x03

/-- DESIGN CHOICE (log 4): the parameters of the machine `State.reset` describes, config A of
95_test_vectors.md; the two parameters that only a machine without EL3 reads are those of config B. -/
def resetParams : Params :=
  { haveEL3 := true, bpr0Min := 2, bpr1MinNoEl3 := .bpr0MinPlusOne, noEl3NonSecure := true }

/-- DESIGN CHOICE (log 5): the default environment of 95_test_vectors.md, at EL3 (as in its program P1). -/
def resetControls : Controls :=
  { el := .el3, iccSreEl1Sre := true, iccSreEl2Sre := true, iccSreEl3Sre := true, ichHcrEl2Tall1 := false,
    hcrEl2Imo := false, scrEl3Irq := false, scrEl3Ns := false, scrEl3Eel2 := false,
    iccCtlrEl3CbprEl1S := false, iccCtlrEl3CbprEl1Ns := false, iccCtlrEl1Cbpr := false,
    el2Enabled := false, el2UsingAArch32 := false, el3UsingAArch32 := false }

/-- DESIGN CHOICE (log 6): the external registers read 0 and nothing has been handed to them. -/
def resetExt : ExtRegs := { iccBpr0 := 0, icvBpr1 := 0, ichVmcrVbpr1 := 0, handed := [] }

/-- DESIGN CHOICE (log 7): `X0` to `X30` hold 0. -/
def resetX : Vector Word 31 := Vector.replicate 31 0

/-- DESIGN CHOICE (log 8): the pc, and with it the address of the (empty) program text, is 0. -/
def resetPc : Word := 0

end Sys2Proof.Machine
end

