-- ==== Sys2Proof/Machine/State.lean ====
section
/-! DEFINITION. The state of the machine: the cells the hardware owns (R14), the minimal PE state its two
instructions use (R23 to R25), the external-state interface (R22), the program text (R36) and the parameters
(R3); the reasons a step stops; and the state after reset (R21, R90). -/

namespace Sys2Proof.Machine

/-- The stored binary points `BPR1[S]`, `BPR1[NS]`, `BPR1[U]` (R14). Bits [63:3] have no storage (R12). The
copies that do not exist on a machine (R13) keep their value (DESIGN CHOICE, log 21). -/
structure Bpr1Cells where
  s : BinaryPoint
  ns : BinaryPoint
  u : BinaryPoint
  deriving DecidableEq, Repr

/-- The state of one PE (R82). -/
structure State where
  /-- The parameters of R3: no step writes them (R27). DESIGN CHOICE (log 1): carried here, not state of the spec. -/
  params : Params
  /-- The program text, a list of instruction words: no step writes it (R36, R95). DESIGN CHOICE (log 1, log 9). -/
  program : List InstrWord
  /-- The address of the first word of the program text (95_test_vectors.md section 7). DESIGN CHOICE (log 9). -/
  base : Word
  /-- How many words of the program have completed: the words run in order, so the next one is the word at this place,
  and the run ends after the last (R95). DESIGN CHOICE (log 9), the model's own field. -/
  completed : Nat
  /-- `X0` to `X30` (R23). -/
  x : Vector Word 31
  /-- The program counter (R24). -/
  pc : Word
  /-- The inputs of R22 that the rules read, `PSTATE.EL` among them: no step writes them. -/
  ctl : Controls
  /-- The external registers of R22 that an access can reach. -/
  ext : ExtRegs
  /-- The register's copies. -/
  bpr1 : Bpr1Cells
  deriving DecidableEq, Repr

/-- The exceptions of R72. A step that raises one stops there and changes no state (R74, R75). Each is safe:
exception entry is not in the spec (R75), so nothing is claimed after it. -/
inductive Fault where
  /-- `UNDEFINED`: raised by both instructions at EL0 (R70). Safe. -/
  | undefined
  /-- `AArch64.SystemAccessTrap(target, ec)`: raised by both instructions on the conditions of R72, rows 2 to 7
  (R71). The code is 6 bits wide (DESIGN CHOICE, log 15). Safe. -/
  | systemAccessTrap (target : EL) (ec : BitVec 6)
  deriving DecidableEq, Repr

/-- What the model gives no meaning. Each is safe: the run stops and nothing is claimed after it. -/
inductive Refusal where
  /-- An instruction with no meaning in `exec`; raised by no arm of this model. Safe. -/
  | notModelled (mnemonic : String)
  /-- Raised by `step`: the word at the pc is no instruction of this hardware (R45). Safe. -/
  | notInScope (w : InstrWord)
  /-- Raised by `step`: the last word of the program has completed, which is the normal end of a run (R95). Safe. -/
  | programEnded
  /-- Raised by `step`: the pc is not at the next word of the program text (R24, R36, D16). Safe. -/
  | noWordAtPc
  /-- Raised by `step`: the pc is no multiple of 4; its effect is not in the spec (R38). Safe. -/
  | pcMisaligned
  /-- Raised by both instructions: a Secure access without EL3 while `ICC_CTLR_EL1.CBPR` is 1, which R62 says the
  model must refuse by name. Safe. -/
  | secureAccessWithoutEl3
  deriving DecidableEq, Repr

/-- The outcome of a step of this machine. -/
abbrev Outcome := Host.Outcome State Fault Refusal

/-- The machine right after reset, with no program loaded. The binary points are UNKNOWN (R21): free values that
R90 forbids to fix. Every other value is one the model names (R91), in `Machine/Defaults.lean`. -/
def State.reset : State :=
  { params := resetParams
    program := []
    base := resetPc
    completed := 0
    x := resetX
    pc := resetPc
    ctl := resetControls
    ext := resetExt
    bpr1 := { s := Config.resetDraw .s, ns := Config.resetDraw .ns, u := Config.resetDraw .u } }

end Sys2Proof.Machine
end

