-- ==== Sys2Proof/Machine/Flags.lean ====
section
/-! DEFINITION. Processor state. The rules read one field of `PSTATE`, the Exception level, write none, and read
and write no condition flag (R25), so there is no flag computation. -/

namespace Sys2Proof.Machine

/-- `PSTATE.EL` (R25). -/
def State.currentEL (s : State) : EL := s.ctl.el

end Sys2Proof.Machine
end

