-- ==== Sys2Proof/Machine/Operands.lean ====
section
/-! DEFINITION. The one operand form, the register operand `<Xt>` (R43), and the unsigned 3-bit arithmetic of the
rules (R5). There is no immediate, shift, extension, addressing mode or condition. -/

namespace Sys2Proof.Machine

/-- The general register `t`: `X0` to `X30`, and 0 for number 31, `XZR`. PRESUMED by the spec (R23,
D4; log 12). -/
def readReg (x : Vector Word 31) (t : RegNum) : Word :=
  if h : t.toNat < 31 then x[t.toNat] else 0

/-- `x` with the 64-bit value `v` in register `t`; number 31, `XZR`, discards it. PRESUMED by the
spec (R23, D4; log 12). -/
def writeReg (x : Vector Word 31) (t : RegNum) (v : Word) : Vector Word 31 :=
  if h : t.toNat < 31 then x.set t.toNat v h else x

/-- `X[t]` (R6, R23). -/
def State.readX (s : State) (t : RegNum) : Word := readReg s.x t

/-- `X[t] <- v` (R6, R23). -/
def State.writeX (s : State) (t : RegNum) (v : Word) : State := { s with x := writeReg s.x t v }

/-- `v[2:0]`, the `BinaryPoint` of a 64-bit register value (R4, R11). -/
def binaryPoint (v : Word) : BinaryPoint := v.extractLsb' 0 3

/-- `zext_64(b)`: the 64-bit register value of a binary point; bits [63:3] are 0 (R6, R12, R14; DEDUCED
by the spec, D6, log 20). -/
def zext64 (b : BinaryPoint) : Word := b.setWidth 64

/-- `sat7(n)`: `n` if `n <= 7`, else 7 (R6). -/
def sat7 (n : Nat) : Nat := if n ≤ 7 then n else 7

/-- "ICC_BPR0_EL1 + 1 saturated to 0b111", as a register value: the sum is exact and then saturated (R58). -/
def mirrorValue (bpr0 : Word) : Word := BitVec.ofNat 64 (sat7 ((binaryPoint bpr0).toNat + 1))

/-- `max(w, m)` (R17): what a write of the binary point `w` stores in a copy whose minimum is `m`. -/
def clampTo (m : Nat) (w : BinaryPoint) : BinaryPoint := BitVec.ofNat 3 (max w.toNat m)

end Sys2Proof.Machine
end

