-- ==== Sys2Proof/Machine/Ops.lean ====
section
/-! DEFINITION. The named operations the two instructions share: the copies of the register and their minimums,
the pc, the external registers, raising an exception, reset, and a change of the PE's inputs. There is no memory
(R30) and no exception return (R76). -/

namespace Sys2Proof.Machine

/-- `BPR1[c]` (R14). -/
def Bpr1Cells.get (b : Bpr1Cells) : Copy → BinaryPoint
  | .s => b.s
  | .ns => b.ns
  | .u => b.u

/-- `BPR1[c] <- v`; no other copy changes (R13). -/
def Bpr1Cells.set (b : Bpr1Cells) (c : Copy) (v : BinaryPoint) : Bpr1Cells :=
  match c with
  | .s => { b with s := v }
  | .ns => { b with ns := v }
  | .u => { b with u := v }

/-- `MIN(c)` (R16). -/
def minOf (p : Params) : Copy → Nat
  | .s => p.bpr0Min.val
  | .ns => p.bpr0Min.val + 1
  | .u =>
    match p.bpr1MinNoEl3 with
    | .bpr0Min => p.bpr0Min.val
    | .bpr0MinPlusOne => p.bpr0Min.val + 1

/-- Whether copy `c` exists on a machine with these parameters (R13). -/
def copyExists (p : Params) : Copy → Bool
  | .s => p.haveEL3
  | .ns => p.haveEL3
  | .u => !p.haveEL3

/-- The 64-bit value of copy `c` (R14). -/
def State.bpr1Value (s : State) (c : Copy) : Word := zext64 (s.bpr1.get c)

/-- `BPR1[c] <- v` in the state. -/
def State.setBpr1 (s : State) (c : Copy) (v : BinaryPoint) : State :=
  { s with bpr1 := s.bpr1.set c v }

/-- A write of `w` that reaches the stored field of copy `c`: a value below the minimum sets the minimum (R17). -/
def State.writeBpr1 (s : State) (c : Copy) (w : BinaryPoint) : State :=
  s.setBpr1 c (clampTo (minOf s.params c) w)

/-- The pc after an instruction that completes: `pc + 4` (R24, decision D3). DESIGN CHOICE (log 13): past the top of
the address space, where the spec gives no value (91 entry N12), a free one. -/
def nextPc (pc : Word) : Word :=
  if pc.toNat + 4 < 2 ^ 64 then BitVec.ofNat 64 (pc.toNat + 4) else Config.pcPastTop pc

/-- `pc <- pc + 4` (R24), and one more word of the program has completed (R95). -/
def State.advance (s : State) : State := { s with pc := nextPc s.pc, completed := s.completed + 1 }

/-- An instruction that completes in state `s` (all it does but moving on is done). -/
def complete (s : State) : Outcome := .next s.advance

/-- `ICC_BPR0_EL1.write(v)`, with that register's own legal-value rules, which the spec does not give (D12).
DESIGN CHOICE (log 16): a free value. -/
def State.writeIccBpr0 (s : State) (v : Word) : State :=
  { s with ext := { s.ext with
      iccBpr0 := Config.iccBpr0AfterWrite s.params s.ctl s.ext v
      handed := .iccBpr0 v :: s.ext.handed } }

/-- `ICV_BPR1_EL1.write(v)`, which also updates `ICH_VMCR_EL2.VBPR1` (R20, R56). DESIGN CHOICE (log 17): both
to free values. -/
def State.writeIcvBpr1 (s : State) (v : Word) : State :=
  { s with ext := { s.ext with
      icvBpr1 := Config.icvBpr1AfterWrite s.params s.ctl s.ext v
      ichVmcrVbpr1 := Config.vbpr1AfterWrite s.params s.ctl s.ext v
      handed := .icvBpr1 v :: s.ext.handed } }

/-- Raising an exception ends the step with its outcome and no state change; the entry itself is not in the spec
(R75, decision D13; log 14). Every exception of the model is raised here. -/
def raise (f : Fault) : Outcome := .fault f

/-- `raise Undefined()` (R70). -/
def raiseUndefined : Outcome := raise .undefined

/-- `raise SystemAccessTrap(target, EC_SYSTRAP)` (R71). -/
def raiseSystemAccessTrap (target : EL) : Outcome := raise (.systemAccessTrap target ecSysTrap)

/-- A reset of the PE (R90, R91): every copy that exists takes the value drawn for it. What else a reset does is
not in the spec and is the surrounding PE's: DESIGN CHOICE (log 27), nothing. -/
def State.applyReset (draw : Copy → BinaryPoint) (s : State) : State :=
  { s with bpr1 :=
      if s.params.haveEL3 then { s.bpr1 with s := draw .s, ns := draw .ns }
      else { s.bpr1 with u := draw .u } }

/-- Between two steps the surrounding PE gives the inputs and the external registers new values (R22).
DESIGN CHOICE (log 19): no step does so by itself. -/
def State.supply (ctl : Controls) (ext : ExtRegs) (s : State) : State := { s with ctl := ctl, ext := ext }

end Sys2Proof.Machine
end

