-- ==== Sys2Proof/Machine/Resolve.lean ====
section
/-! DEFINITION. What an access reaches: the resolution of the access pseudocode (R50 to R53), the Security state
of an access (R54) and the mode of a physical access (R63). The same for `MRS` and `MSR`. -/

namespace Sys2Proof.Machine

/-- The result type of `Resolve()` (R50). -/
inductive Resolution where
  | undefined
  | trap (target : EL)
  | virtual
  | phys (c : Copy)
  deriving DecidableEq, Repr

/-- `EL2Enabled() && !ELUsingAArch32(EL2)`. -/
def el2Controls (c : Controls) : Bool := c.el2Enabled && !c.el2UsingAArch32

/-- `HaveEL(EL3) && !ELUsingAArch32(EL3) && SCR_EL3.IRQ == '1'`. -/
def el3TakesIrqAccesses (p : Params) (c : Controls) : Bool := p.haveEL3 && !c.el3UsingAArch32 && c.scrEl3Irq

/-- The copy `SCR_EL3.NS` selects on a machine with EL3 (R13). -/
def bankedCopy (c : Controls) : Copy := if !c.scrEl3Ns then .s else .ns

/-- Resolution at EL1 (R51). -/
def resolveEl1 (p : Params) (c : Controls) : Resolution :=
  if !c.iccSreEl1Sre then .trap .el1
  else if el2Controls c && c.ichHcrEl2Tall1 then .trap .el2
  else if el2Controls c && c.hcrEl2Imo then .virtual
  else if el3TakesIrqAccesses p c then .trap .el3
  else if p.haveEL3 then .phys (bankedCopy c)
  else .phys .u

/-- Resolution at EL2 (R52). -/
def resolveEl2 (p : Params) (c : Controls) : Resolution :=
  if !c.iccSreEl2Sre then .trap .el2
  else if el3TakesIrqAccesses p c then .trap .el3
  else if p.haveEL3 then .phys (bankedCopy c)
  else .phys .u

/-- Resolution at EL3 (R53). Without EL3, where this level cannot be, the pseudocode is followed as it stands
(DESIGN CHOICE, log 21). -/
def resolveEl3 (c : Controls) : Resolution :=
  if !c.iccSreEl3Sre then .trap .el3 else .phys (bankedCopy c)

/-- `Resolve()` (R50). -/
def resolve (p : Params) (c : Controls) : Resolution :=
  match c.el with
  | .el0 => .undefined
  | .el1 => resolveEl1 p c
  | .el2 => resolveEl2 p c
  | .el3 => resolveEl3 c

/-- The Security state of an access (R54). -/
inductive Security where
  | secure
  | nonSecure
  deriving DecidableEq, Repr

/-- The Security state of an access in this environment (R54). With EL3 only accesses at EL1 and EL2 have one.
DEDUCED by the spec (decision D9, log 23). -/
def accessSecurity (p : Params) (c : Controls) : Option Security :=
  if p.haveEL3 then
    match c.el with
    | .el1 | .el2 => some (if c.scrEl3Ns then .nonSecure else .secure)
    | .el0 | .el3 => none
  else some (if p.noEl3NonSecure then .nonSecure else .secure)

/-- The modes of a physical access (R63). -/
inductive PhysMode where
  | direct
  | aliasBpr0
  | mirrorBpr0
  | refused
  deriving DecidableEq, Repr

/-- `PhysMode(c, el)` for `el = PSTATE.EL` (R63). At EL3 no common binary point control applies. DEDUCED by
the spec (decision D20, log 22); the refusal is decision D10 (log 23). -/
def physMode (p : Params) (ctl : Controls) (c : Copy) : PhysMode :=
  if p.haveEL3 then
    match c, ctl.el with
    | .s, .el1 => if ctl.iccCtlrEl3CbprEl1S then .aliasBpr0 else .direct
    | .ns, .el1 | .ns, .el2 => if ctl.iccCtlrEl3CbprEl1Ns then .mirrorBpr0 else .direct
    | _, _ => .direct
  else
    match ctl.el with
    | .el1 | .el2 =>
      if ctl.iccCtlrEl1Cbpr then
        if p.noEl3NonSecure then .mirrorBpr0 else .refused
      else .direct
    | .el0 | .el3 => .direct

end Sys2Proof.Machine
end

