-- ==== Sys2Proof/Machine/SysregAccess.lean ====
section
/-! DEFINITION. The two instructions (R60, R61) over the read and the write of a physical access (R58, R59). -/

namespace Sys2Proof.Machine

/-- The skeleton of both instructions (R60, R61): resolve the access, raise the exception it names, or go on to
the virtual register or to a copy. -/
def access (s : State) (onVirtual : Outcome) (onPhys : Copy → Outcome) : Outcome :=
  match resolve s.params s.ctl with
  | .undefined => raiseUndefined
  | .trap target => raiseSystemAccessTrap target
  | .virtual => onVirtual
  | .phys c => onPhys c

/-- `PhysRead(c, el)` (R58): the value read, or none where the model refuses. -/
def physRead (s : State) (c : Copy) : Option Word :=
  match physMode s.params s.ctl c with
  | .direct => some (s.bpr1Value c)
  | .aliasBpr0 => some s.ext.iccBpr0
  | .mirrorBpr0 => some (mirrorValue s.ext.iccBpr0)
  | .refused => none

/-- `PhysWrite(c, el, v)` (R59): the state after the write, or none where the model refuses. -/
def physWrite (s : State) (c : Copy) (v : Word) : Option State :=
  match physMode s.params s.ctl c with
  | .direct => some (s.writeBpr1 c (binaryPoint v))
  | .aliasBpr0 => some (s.writeIccBpr0 v)
  | .mirrorBpr0 => some s
  | .refused => none

/-- An `MRS` that has its value: `X[t] <- v`, then `pc <- pc + 4`. No value: the access R62 refuses. -/
def completeRead (s : State) (t : RegNum) : Option Word → Outcome
  | some v => complete (s.writeX t v)
  | none => .refused .secureAccessWithoutEl3

/-- An `MSR` that has its effect: `pc <- pc + 4`. No effect: the access R62 refuses. -/
def completeWrite : Option State → Outcome
  | some s => complete s
  | none => .refused .secureAccessWithoutEl3

/-- `MRS <Xt>, ICC_BPR1_EL1` (R60). -/
def execMrs (t : RegNum) (s : State) : Outcome :=
  access s (complete (s.writeX t s.ext.icvBpr1)) (fun c => completeRead s t (physRead s c))

/-- `MSR ICC_BPR1_EL1, <Xt>` (R61). -/
def execMsr (t : RegNum) (s : State) : Outcome :=
  access s (complete (s.writeIcvBpr1 (s.readX t))) (fun c => completeWrite (physWrite s c (s.readX t)))

end Sys2Proof.Machine
end

