-- ==== Sys2Proof/Machine/Fetch.lean ====
section
/-! DEFINITION. The word the next step runs. The program is a list of words, executed in order from the first (R95),
at consecutive addresses; there is no memory (R30, D16). -/

namespace Sys2Proof.Machine

/-- What the next step finds. -/
inductive Fetch where
  | word (w : InstrWord)
  | ended
  | outside
  | misaligned
  deriving DecidableEq, Repr

/-- The address of the next word: word `k` of the program is at `base + 4 * k` (DESIGN CHOICE, log 9). From 2 ^ 64 on it
is no address. -/
def State.nextAddress (s : State) : Nat := s.base.toNat + 4 * s.completed

/-- The next word of the program, or the normal end of the run after the last word, whatever the pc then is (R95).
DESIGN CHOICE (log 9): where the next word has an address, the pc must be there (R24), or the step is refused by name;
a pc that is no multiple of 4 is left to the PE (R38). Past the top of the address space, where R24 decides nothing
about the pc, R95 alone decides: the next word runs. -/
def State.fetch (s : State) : Fetch :=
  match s.program[s.completed]? with
  | none => .ended
  | some w =>
    if s.nextAddress < 2 ^ 64 then
      if s.pc.toNat % 4 ≠ 0 then .misaligned
      else if s.pc.toNat = s.nextAddress then .word w
      else .outside
    else .word w

/-- Loading a program from outside the machine. DESIGN CHOICE (log 10): its text is `ws`, none of it has
completed, and its first word is at the pc, moved down to the multiple of 4 it lies in. -/
def State.load (s : State) (ws : List InstrWord) : State :=
  { s with
    program := ws
    base := BitVec.ofNat 64 (s.pc.toNat / 4 * 4)
    completed := 0
    pc := BitVec.ofNat 64 (s.pc.toNat / 4 * 4) }

end Sys2Proof.Machine
end

