-- ==== Sys2Proof/Machine/Step.lean ====
section
/-! DEFINITION. One step: the next word of the program is decoded and its instruction executed, indivisibly (R32). -/

namespace Sys2Proof.Machine

/-- Running one word: its instruction, or the refusal of a word that is none (R45). -/
def runWord (w : InstrWord) (s : State) : Host.Outcome State Fault Refusal :=
  match decode w with
  | .instr i => exec i s
  | .rejected _ => .refused (.notInScope w)

/-- One step of the machine (R95). -/
def step (s : State) : Host.Outcome State Fault Refusal :=
  match s.fetch with
  | .word w => runWord w s
  | .ended => .refused .programEnded
  | .outside => .refused .noWordAtPc
  | .misaligned => .refused .pcMisaligned

/-- `s` with the one-word program that the next step runs: the word whose low `nbits` bits are those of `w`. -/
def State.withFetchWord (s : State) (nbits w : Nat) : State :=
  s.load [BitVec.ofNat 32 (w % 2 ^ nbits)]

end Sys2Proof.Machine
end

