-- ==== Sys2Proof/Machine/Views.lean ====
section
/-! DEFINITION. The register seen from elsewhere: the AArch32 register `ICC_BPR1` on the same storage (R15), and
the split of an interrupt priority by the binary point (R18, R19). No instruction uses either. -/

namespace Sys2Proof.Machine

/-- The AArch32 register `ICC_BPR1` of copy `c`: the same storage as bits [31:0] of `ICC_BPR1_EL1` (R15); for the
unbanked copy DEDUCED by the spec (D22, log 25). -/
def State.iccBpr1AArch32 (s : State) (c : Copy) : BitVec 32 := (s.bpr1Value c).setWidth 32

/-- A split of an 8-bit priority into its upper part, the group priority field, and its lower part, the
subpriority field (R8, R18), each as an unsigned value. -/
structure PrioritySplit where
  group : Priority
  sub : Priority
  deriving DecidableEq, Repr

/-- The split of `P` whose subpriority field has `n` bits. -/
def splitAt (n : Fin 9) (P : Priority) : PrioritySplit :=
  { group := P >>> n.val, sub := BitVec.ofNat 8 (P.toNat % 2 ^ n.val) }

/-- Whether copy `c`'s own binary point is in force: its common binary point control is 0. DEDUCED by the spec
itself (R18, log 24): the source does not name the control. -/
def separateBinaryPoint (ctl : Controls) : Copy → Bool
  | .s => !ctl.iccCtlrEl3CbprEl1S
  | .ns => !ctl.iccCtlrEl3CbprEl1Ns
  | .u => !ctl.iccCtlrEl1Cbpr

/-- How the value of copy `c` splits a Group 1 priority (R18), by the open parameter `GroupPrioritySplit` (R3);
none while a common binary point is in force, where R18 gives the register no say. -/
def State.group1Split (s : State) (c : Copy) (P : Priority) : Option PrioritySplit :=
  if separateBinaryPoint s.ctl c then some (splitAt (Config.groupPrioritySplit c (s.bpr1.get c)) P) else none

/-- PRESUMED (log 24): the general-knowledge default of R19, the number of subpriority bits for a value `b`; R19 gives
none for the unbanked copy. Nothing in the model uses it: a claim about it names it as its assumption. -/
def familySubpriorityBits : Copy → BinaryPoint → Option Nat
  | .s, b => some (b.toNat + 1)
  | .ns, b => some b.toNat
  | .u, _ => none

end Sys2Proof.Machine
end

