-- ==== Sys2Proof/Safety.lean ====
section
/-! DEFINITION. Runs: how a run of a program ends (R95, R75), and what a machine embedded in a PE can reach. -/

namespace Sys2Proof.Machine

/-- How a run ends, with the state it ends in. A fault or a refusal leaves the state of the step it stopped (R74). -/
inductive RunResult where
  | ended (s : State)
  | faulted (r : Fault) (s : State)
  | refused (r : Refusal) (s : State)
  | outOfFuel (s : State)
  deriving DecidableEq, Repr

/-- A run of at most `n` completed instructions (R95): no step is taken after a fault or a refusal (R75), and the
run ends normally when the last word has completed. -/
def run : Nat → State → RunResult
  | 0, s => if s.fetch = .ended then .ended s else .outOfFuel s
  | n + 1, s =>
    if s.fetch = .ended then .ended s
    else
      match step s with
      | .next s' => run n s'
      | .fault r => .faulted r s
      | .refused r => .refused r s

/-- A run is safe when it ends normally: no exception is raised and nothing is refused (R95). -/
def SafeRun (n : Nat) (s : State) : Prop := ∃ s', run n s = .ended s'

/-- The states a PE can bring the machine to without a reset: by steps of this machine, and by anything the
surrounding PE does between them, which may change every part of the state but the parameters (R27) and the copies,
which only `MSR` and reset write (R34). -/
inductive Reaches : State → State → Prop where
  | refl (s : State) : Reaches s s
  | step {s s' s'' : State} (h : Reaches s s') (next : step s' = .next s'') : Reaches s s''
  | outside {s s' s'' : State} (h : Reaches s s') (params : s''.params = s'.params) (bpr1 : s''.bpr1 = s'.bpr1) :
      Reaches s s''

/-- EL3 can be the current Exception level only where it is implemented (R53). -/
abbrev State.El3OnlyIfImplemented (s : State) : Prop := s.ctl.el = .el3 → s.params.haveEL3 = true

/-- The program lies at addresses that are multiples of 4, and the pc is the address of its next word, where that has
one (R24, R95). -/
abbrev State.PcAtNextWord (s : State) : Prop :=
  s.base.toNat % 4 = 0 ∧ (s.nextAddress < 2 ^ 64 → s.pc.toNat = s.nextAddress)

/-- Copy `c` holds a legal value (R16). -/
abbrev State.LegalCopy (s : State) (c : Copy) : Prop :=
  minOf s.params c ≤ (s.bpr1.get c).toNat ∧ (s.bpr1.get c).toNat ≤ 7

end Sys2Proof.Machine
end

