-- ==== Sys2Proof/Certificates/Slice0/Obligations.lean ====
section
/-! DEFINITION. The statements for the provers. First the words they share: when an access is virtual or physical
(R51 to R53, in the spec's own conditions), what a completed `MRS` or `MSR` does, and what it leaves unchanged. -/

namespace Sys2Proof.Claims

open Sys2Proof.Machine

/-! ### Premises: conditions on the parameters and the inputs alone -/

/-- `EL2Enabled() && !ELUsingAArch32(EL2)`. -/
abbrev El2Controls (s : State) : Prop := s.ctl.el2Enabled = true ∧ s.ctl.el2UsingAArch32 = false

/-- `HaveEL(EL3) && !ELUsingAArch32(EL3) && SCR_EL3.IRQ == '1'`. -/
abbrev El3TakesAccesses (s : State) : Prop :=
  s.params.haveEL3 = true ∧ s.ctl.el3UsingAArch32 = false ∧ s.ctl.scrEl3Irq = true

/-- An access at EL1 that R51 neither traps nor redirects. -/
abbrev PhysicalAtEl1 (s : State) : Prop :=
  s.ctl.el = .el1 ∧ s.ctl.iccSreEl1Sre = true ∧ ¬(El2Controls s ∧ s.ctl.ichHcrEl2Tall1 = true) ∧
  ¬(El2Controls s ∧ s.ctl.hcrEl2Imo = true) ∧ ¬El3TakesAccesses s

/-- An access at EL2 that R52 does not trap. -/
abbrev PhysicalAtEl2 (s : State) : Prop :=
  s.ctl.el = .el2 ∧ s.ctl.iccSreEl2Sre = true ∧ ¬El3TakesAccesses s

/-- An access at EL3, which exists only where EL3 is implemented, that R53 does not trap. -/
abbrev PhysicalAtEl3 (s : State) : Prop :=
  s.ctl.el = .el3 ∧ s.params.haveEL3 = true ∧ s.ctl.iccSreEl3Sre = true

/-- An access that R51 redirects to `ICV_BPR1_EL1`. -/
abbrev VirtualAtEl1 (s : State) : Prop :=
  s.ctl.el = .el1 ∧ s.ctl.iccSreEl1Sre = true ∧ El2Controls s ∧ s.ctl.ichHcrEl2Tall1 = false ∧
  s.ctl.hcrEl2Imo = true

/-- The access of this state reaches the stored field of copy `c`: `Resolve() = Phys(c)` (R50) in mode `Direct` (R63).
-/
abbrev ReachesCell (s : State) (c : Copy) : Prop :=
  resolve s.params s.ctl = .phys c ∧ physMode s.params s.ctl c = .direct

/-- `w` is the next word of the program, and where it has an address, that is the pc and a multiple of 4. -/
abbrev WordAtPc (s : State) (w : InstrWord) : Prop :=
  s.program[s.completed]? = some w ∧
  (s.base.toNat + 4 * s.completed < 2 ^ 64 → s.pc.toNat % 4 = 0 ∧ s.pc.toNat = s.base.toNat + 4 * s.completed)

/-- The states in which the prose tables and the pseudocode can be compared (40_sysreg_access.md section 6): no
earlier trap, and the extra conjuncts of the pseudocode hold. -/
abbrev TableComparable (s : State) : Prop :=
  (s.ctl.el = .el1 → s.ctl.iccSreEl1Sre = true) ∧ (s.ctl.el = .el2 → s.ctl.iccSreEl2Sre = true) ∧
  s.ctl.ichHcrEl2Tall1 = false ∧ s.ctl.el2UsingAArch32 = false ∧ s.ctl.el3UsingAArch32 = false ∧
  (s.ctl.hcrEl2Imo = true → s.ctl.el2Enabled = true)

/-- R95, in its own terms: the words of a list executed in order from the first. The run ends normally after the last
word has completed, in a fault at the first word that raises one, and is refused at the first word that is refused. -/
def runWords : List InstrWord → State → RunResult
  | [], s => .ended s
  | w :: ws, s =>
    match runWord w s with
    | .next s' => runWords ws s'
    | .fault f => .faulted f s
    | .refused r => .refused r s

/-! ### Effects -/

/-- `pc + 4` (R24: decision D3 of the spec, log 13); past the top of the address space the spec gives no next pc. One
more word of the program has completed (R95; the count is the model's, log 9). -/
def PcMovesOn (s s' : State) : Prop :=
  (s.pc.toNat + 4 < 2 ^ 64 → s'.pc.toNat = s.pc.toNat + 4) ∧ s'.completed = s.completed + 1

/-- Parameters, program text and inputs, `PSTATE.EL` among them, are unchanged (R25, R27, R36). -/
def SameSurroundings (s s' : State) : Prop :=
  s'.params = s.params ∧ s'.program = s.program ∧ s'.base = s.base ∧ s'.ctl = s.ctl

/-- What every completed `MRS` with destination `t` leaves unchanged (R60): everything but `X[t]`, the pc
and the count of completed words. -/
def MrsFrame (t : RegNum) (s s' : State) : Prop :=
  (∀ u, u ≠ t → s'.readX u = s.readX u) ∧ SameSurroundings s s' ∧ s'.ext = s.ext ∧ s'.bpr1 = s.bpr1

/-- What every completed `MSR` leaves unchanged (R61), beside what it writes: the general registers, the parameters,
the program text and the inputs. -/
def MsrFrame (s s' : State) : Prop := (∀ u, s'.readX u = s.readX u) ∧ SameSurroundings s s'

/-- The `MRS` completes and reads `v`: `X[t]` holds it. That number 31 is `XZR`, which discards it, is PRESUMED by the
spec (decision D4, log 12). -/
def MrsReads (t : RegNum) (s : State) (v : Word) : Prop :=
  ∃ s', exec (.mrs t) s = .next s' ∧ s'.readX t = (if t = 31 then 0 else v) ∧ MrsFrame t s s' ∧ PcMovesOn s s'

/-- The `MSR` completes and copy `c`, alone of all state but the pc and the count of completed words, holds the maximum
of `X[t][2:0]` and `m`. -/
def MsrStores (t : RegNum) (s : State) (c : Copy) (m : Nat) : Prop :=
  ∃ s', exec (.msr t) s = .next s' ∧ (s'.bpr1.get c).toNat = max ((s.readX t).toNat % 8) m ∧
    (∀ d, d ≠ c → s'.bpr1.get d = s.bpr1.get d) ∧ s'.ext = s.ext ∧ MsrFrame s s' ∧ PcMovesOn s s'

/-- The `MSR` completes and its write is ignored. -/
def MsrIgnored (t : RegNum) (s : State) : Prop :=
  ∃ s', exec (.msr t) s = .next s' ∧ s'.bpr1 = s.bpr1 ∧ s'.ext = s.ext ∧ MsrFrame s s' ∧ PcMovesOn s s'

/-- The `MSR` completes and hands `X[t]`, whole, to `ICC_BPR0_EL1.write`: of the external registers only
`ICC_BPR0_EL1` changes, to a free value (log 16); the list of hand-overs is the model's own (log 18). -/
def MsrWritesBpr0 (t : RegNum) (s : State) : Prop :=
  ∃ s', exec (.msr t) s = .next s' ∧
    s'.ext.iccBpr0 = Config.iccBpr0AfterWrite s.params s.ctl s.ext (s.readX t) ∧
    s'.ext.handed = .iccBpr0 (s.readX t) :: s.ext.handed ∧
    s'.ext.icvBpr1 = s.ext.icvBpr1 ∧ s'.ext.ichVmcrVbpr1 = s.ext.ichVmcrVbpr1 ∧
    s'.bpr1 = s.bpr1 ∧ MsrFrame s s' ∧ PcMovesOn s s'

/-- The `MSR` completes and hands `X[t]`, whole, to `ICV_BPR1_EL1.write`: of the external registers only
`ICV_BPR1_EL1` and `ICH_VMCR_EL2.VBPR1` change, to free values (log 17); the list of hand-overs is the model's own
(log 18). -/
def MsrWritesVirtual (t : RegNum) (s : State) : Prop :=
  ∃ s', exec (.msr t) s = .next s' ∧
    s'.ext.icvBpr1 = Config.icvBpr1AfterWrite s.params s.ctl s.ext (s.readX t) ∧
    s'.ext.ichVmcrVbpr1 = Config.vbpr1AfterWrite s.params s.ctl s.ext (s.readX t) ∧
    s'.ext.handed = .icvBpr1 (s.readX t) :: s.ext.handed ∧
    s'.ext.iccBpr0 = s.ext.iccBpr0 ∧ s'.bpr1 = s.bpr1 ∧ MsrFrame s s' ∧ PcMovesOn s s'

/-- "ICC_BPR0_EL1 + 1 saturated to 0b111", zero-extended (R58). -/
def Bpr0PlusOne (s : State) : Word := BitVec.ofNat 64 (min (s.ext.iccBpr0.toNat % 8 + 1) 7)

/-- The 64-bit value of a binary point: bits [63:3] are 0 (R14). -/
def Extended (b : BinaryPoint) : Word := BitVec.ofNat 64 b.toNat

/-- `MIN(c)`, written out from R16. -/
def Minimum (p : Params) : Copy → Nat
  | .s => p.bpr0Min.val
  | .ns => p.bpr0Min.val + 1
  | .u => p.bpr0Min.val + (if p.bpr1MinNoEl3 = .bpr0MinPlusOne then 1 else 0)

/-- Reading mirrors `ICC_BPR0_EL1` and writing is ignored (R57, R62). -/
def Mirrors (s : State) : Prop := ∀ t, MrsReads t s (Bpr0PlusOne s) ∧ MsrIgnored t s

/-- Reading and writing go to the virtual register (R56). -/
def GoesVirtual (s : State) : Prop := ∀ t, MrsReads t s s.ext.icvBpr1 ∧ MsrWritesVirtual t s

/-- Reading and writing go to the stored field of copy `c` (R58, R59). -/
def GoesDirect (s : State) (c : Copy) : Prop :=
  ∀ t, MrsReads t s (Extended (s.bpr1.get c)) ∧ MsrStores t s c (Minimum s.params c)

/-- Both instructions trap to `target` with the code `0x03`, whatever the operand (R71). -/
def Traps (s : State) (target : EL) : Prop := ∀ i, exec i s = .fault (.systemAccessTrap target 0x03)

end Sys2Proof.Claims

open Sys2Proof Sys2Proof.Machine Sys2Proof.Claims

/-! ## Encoding -/

/-- R41, R42: words written out from the spec's encoding decode to the instructions they stand for, as words and as
bytes in memory order (95_test_vectors.md section 2; the layout is PRESUMED, log 2 and 3). -/
def Obligations.SpecWordsDecodeAsWritten : Prop :=
  decode 0b11010101001110001100110001100010#32 = .instr (.mrs 2) ∧
  decode 0b11010101001110001100110001111111#32 = .instr (.mrs 31) ∧
  decode 0b11010101000110001100110001100001#32 = .instr (.msr 1) ∧
  decode 0b11010101000110001100110001111110#32 = .instr (.msr 30) ∧
  decodeBytes [0x65, 0xCC, 0x38, 0xD5] = (.instr (.mrs 5), []) ∧
  decodeBytes [0x7F, 0xCC, 0x18, 0xD5] = (.instr (.msr 31), [])

/-- R41, R45 (layout and byte order PRESUMED, log 2 and 3): decoding the encoding of a well-formed instruction gives
it back, with every operand at every value, from its word and from its bytes, and leaves the bytes that follow. -/
def Obligations.DecodeInvertsEncode : Prop :=
  ∀ i : Instr, i.wellFormed = true →
    decode (encode i) = .instr i ∧
    ∀ rest, decodeBytes (bytesOfWord (encode i) ++ rest) = (.instr i, rest)

/-- R42, on the layout the spec takes from general knowledge (PRESUMED, decision D2, log 2): the decoder, written from
the field positions, agrees with the spec's two patterns; the patterns differ in bit 21 only; and every instruction
takes exactly 4 bytes. -/
def Obligations.DecodeMatchesPatterns : Prop :=
  (∀ (w : InstrWord) (t : RegNum),
    (decode w = .instr (.mrs t) ↔ w &&& 0xFFFFFFE0#32 = 0xD538CC60#32 ∧ t.toNat = w.toNat % 32) ∧
    (decode w = .instr (.msr t) ↔ w &&& 0xFFFFFFE0#32 = 0xD518CC60#32 ∧ t.toNat = w.toNat % 32)) ∧
  (0xD538CC60#32 ^^^ 0xD518CC60#32 = BitVec.twoPow 32 21) ∧
  (∀ (bytes rest : List Byte) (i : Instr), decodeBytes bytes = (.instr i, rest) → bytes.length = rest.length + 4)

/-- R41, R42 (layout PRESUMED, log 2): no bit of an encoding is dropped: a word that decodes is the encoding of what
it decodes to. -/
def Obligations.EncodeInvertsDecode : Prop :=
  ∀ (w : InstrWord) (i : Instr), decode w = .instr i → encode i = w

/-- R45 (decision D1 of the spec): every value of `t` is an instruction in both patterns; a word that matches neither
pattern is rejected by the decoder as not in scope, and a step at it is refused by that name, at every Exception
level. -/
def Obligations.OtherWordsAreRefused : Prop :=
  (∀ t : RegNum, decode (0xD538CC60#32 ||| t.setWidth 32) = .instr (.mrs t) ∧
    decode (0xD518CC60#32 ||| t.setWidth 32) = .instr (.msr t)) ∧
  (∀ w : InstrWord, w &&& 0xFFFFFFE0#32 ≠ 0xD538CC60#32 → w &&& 0xFFFFFFE0#32 ≠ 0xD518CC60#32 →
    decode w = .rejected (.notInScope w) ∧
    ∀ s : State, WordAtPc s w → step s = .refused (.notInScope w))

/-- The bit-flip property of 95_test_vectors.md section 2, for each instruction: flipping bit 21 turns `MRS` into
`MSR` and back, flipping any other of bits 31 to 5 leaves no instruction, and flipping one of bits 4 to 0 flips that
bit of `t`. -/
def Obligations.FlippedBitsOfAnEncoding : Prop :=
  ∀ t : RegNum,
    decode (encode (.mrs t) ^^^ BitVec.twoPow 32 21) = .instr (.msr t) ∧
    decode (encode (.msr t) ^^^ BitVec.twoPow 32 21) = .instr (.mrs t) ∧
    (∀ k : Fin 32, 5 ≤ k.val → k.val ≠ 21 → ∀ i ∈ [Instr.mrs t, Instr.msr t],
      ∃ w, decode (encode i ^^^ BitVec.twoPow 32 k.val) = .rejected (.notInScope w)) ∧
    (∀ k : Fin 32, k.val < 5 →
      decode (encode (.mrs t) ^^^ BitVec.twoPow 32 k.val) = .instr (.mrs (t ^^^ BitVec.twoPow 5 k.val)) ∧
      decode (encode (.msr t) ^^^ BitVec.twoPow 32 k.val) = .instr (.msr (t ^^^ BitVec.twoPow 5 k.val)))

/-! ## The step and the run -/

/-- R95, R32: when the next word of the program, at the pc, decodes to an instruction, a step is that instruction at
that state, nothing added around it. The place and the addresses of the program text are the model's (log 9). -/
def Obligations.StepRunsDecodedInstruction : Prop :=
  ∀ (s : State) (w : InstrWord) (i : Instr), WordAtPc s w → decode w = .instr i → step s = exec i s

/-- A word loaded from outside (log 10) is the very next thing a step runs, and a pc that is a multiple of 4 stays
where it is. Model's choice: log 9 and 10. -/
def Obligations.LoadedWordRunsNext : Prop :=
  ∀ (s : State) (nbits w : Nat) (i : Instr), decodeTableWord nbits w = some i →
    step (s.withFetchWord nbits w) = exec i (s.withFetchWord nbits w) ∧
    (s.pc.toNat % 4 = 0 → (s.withFetchWord nbits w).pc = s.pc)

/-- Where a step stops without an instruction: after the last word of the program has completed, whatever the pc is
(R95); and where the next word has an address, at a pc that is no multiple of 4 (R38), and at any other pc but that
address. Model's choice of names, and of the last stop: log 9. -/
def Obligations.StepStopsWithoutWord : Prop :=
  ∀ s : State,
    (s.program.length ≤ s.completed → step s = .refused .programEnded) ∧
    (s.completed < s.program.length → s.base.toNat + 4 * s.completed < 2 ^ 64 →
      (s.pc.toNat % 4 ≠ 0 → step s = .refused .pcMisaligned) ∧
      (s.pc.toNat % 4 = 0 → s.pc.toNat ≠ s.base.toNat + 4 * s.completed → step s = .refused .noWordAtPc))

/-- R74 (derived by the spec) and R75 (decision D13, log 14): a run takes no step after an exception: it ends in the
state of the step that raised it, its pc and registers as before the instruction, however many steps it was given. -/
def Obligations.RunStopsAtException : Prop :=
  ∀ (n m : Nat) (s s' : State) (f : Fault),
    (step s = .fault f → run (n + 1) s = .faulted f s) ∧
    (run n s = .faulted f s' → step s' = .fault f ∧ run (n + m) s = .faulted f s')

/-- R95 (decision D1 of the spec, log 9): a run is finite and in order. From the first word of any program, wherever it
lies, as many steps as the program has words bring the run to its end, a fault or a refusal; a run that ends normally
ends when the last word has completed, with the program unchanged, and the pc, if it began at the first word, just past
the last, where that is below the top of the address space (D3, log 13). -/
def Obligations.EveryProgramRunEnds : Prop :=
  ∀ s : State, s.completed = 0 →
    (∀ s', run s.program.length s ≠ .outOfFuel s') ∧
    (∀ s', run s.program.length s = .ended s' →
      s'.program = s.program ∧ s'.completed = s.program.length ∧
      (s.pc = s.base → s.base.toNat + 4 * s.program.length < 2 ^ 64 →
        s'.pc.toNat = s.base.toNat + 4 * s.program.length))

/-- R95 (decision D1 of the spec): a run from the first word of a program is the execution of its words in order, with
the same end, in the same state. The program may end at the top of the address space or run past it: the end follows
the last word, whatever the pc is (log 9, log 13). -/
def Obligations.RunIsWordsInOrder : Prop :=
  ∀ s : State, s.completed = 0 → s.pc = s.base → s.base.toNat % 4 = 0 →
    run s.program.length s = runWords s.program s

/-- R24, R95: that the program lies at multiples of 4 and the pc is the address of its next word, where that has one,
is kept by every step, and holds after every load. Model's choice: log 9 and 10. -/
def Obligations.PcAtNextWordIsKept : Prop :=
  (∀ s s' : State, s.PcAtNextWord → step s = .next s' → s'.PcAtNextWord) ∧
  (∀ (s : State) (ws : List InstrWord), (s.load ws).PcAtNextWord)

/-- The same invariant holds of the state after reset, whose program is empty. Model's choice: log 8 and 10. -/
def Obligations.PcAtNextWordAtReset : Prop := State.reset.PcAtNextWord

/-! ## Exceptions -/

/-- R70: both instructions are UNDEFINED at EL0, whatever the rest of the state holds, and under no other condition.
-/
def Obligations.UndefinedExactlyAtEl0 : Prop :=
  ∀ (i : Instr) (s : State), exec i s = .fault .undefined ↔ s.ctl.el = .el0

/-- R72: the complete list of exception causes, row by row, for both instructions and every operand. -/
def Obligations.ExceptionCausesAreThoseListed : Prop :=
  ∀ (i : Instr) (s : State) (f : Fault),
    exec i s = .fault f ↔
      (s.ctl.el = .el0 ∧ f = .undefined) ∨
      (s.ctl.el = .el1 ∧ s.ctl.iccSreEl1Sre = false ∧ f = .systemAccessTrap .el1 0x03) ∨
      (s.ctl.el = .el1 ∧ s.ctl.iccSreEl1Sre = true ∧ El2Controls s ∧ s.ctl.ichHcrEl2Tall1 = true ∧
        f = .systemAccessTrap .el2 0x03) ∨
      (s.ctl.el = .el1 ∧ s.ctl.iccSreEl1Sre = true ∧ ¬(El2Controls s ∧ s.ctl.ichHcrEl2Tall1 = true) ∧
        ¬(El2Controls s ∧ s.ctl.hcrEl2Imo = true) ∧ El3TakesAccesses s ∧ f = .systemAccessTrap .el3 0x03) ∨
      (s.ctl.el = .el2 ∧ s.ctl.iccSreEl2Sre = false ∧ f = .systemAccessTrap .el2 0x03) ∨
      (s.ctl.el = .el2 ∧ s.ctl.iccSreEl2Sre = true ∧ El3TakesAccesses s ∧ f = .systemAccessTrap .el3 0x03) ∨
      (s.ctl.el = .el3 ∧ s.ctl.iccSreEl3Sre = false ∧ f = .systemAccessTrap .el3 0x03)

/-- R73: of several causes the first in the order of the pseudocode is reported, so a trap to a lower level wins over
one to a higher level, and the virtual redirection hides the `SCR_EL3.IRQ` trap. -/
def Obligations.FirstExceptionCauseWins : Prop :=
  ∀ s : State,
    (s.ctl.el = .el1 →
      (s.ctl.iccSreEl1Sre = false → Traps s .el1) ∧
      (s.ctl.iccSreEl1Sre = true → El2Controls s → s.ctl.ichHcrEl2Tall1 = true → Traps s .el2) ∧
      (VirtualAtEl1 s → ∀ i f, exec i s ≠ .fault f) ∧
      (s.ctl.iccSreEl1Sre = true → ¬(El2Controls s ∧ s.ctl.ichHcrEl2Tall1 = true) →
        ¬(El2Controls s ∧ s.ctl.hcrEl2Imo = true) → El3TakesAccesses s → Traps s .el3)) ∧
    (s.ctl.el = .el2 →
      (s.ctl.iccSreEl2Sre = false → Traps s .el2) ∧
      (s.ctl.iccSreEl2Sre = true → El3TakesAccesses s → Traps s .el3)) ∧
    (s.ctl.el = .el3 → (∃ i f, exec i s = .fault f) → s.ctl.iccSreEl3Sre = false ∧ Traps s .el3) ∧
    (∀ (i : Instr) (target : EL) (ec : BitVec 6), exec i s = .fault (.systemAccessTrap target ec) →
      1 ≤ target.rank ∧ s.ctl.el.rank ≤ target.rank)

/-- R72: no operand and no register value causes or averts a stop: with the same parameters and inputs, either
instruction in either state stops exactly as the other does. -/
def Obligations.StopsDependOnlyOnInputs : Prop :=
  ∀ (i j : Instr) (s s' : State), s'.params = s.params → s'.ctl = s.ctl →
    (∀ f, exec i s = .fault f ↔ exec j s' = .fault f) ∧
    (∀ r, exec i s = .refused r ↔ exec j s' = .refused r)

/-- R62, D10: the one access the model refuses, and its name. -/
def Obligations.RefusedExactlyWithoutEl3Secure : Prop :=
  ∀ (i : Instr) (s : State) (r : Refusal),
    exec i s = .refused r ↔
      r = .secureAccessWithoutEl3 ∧ s.params.haveEL3 = false ∧ s.params.noEl3NonSecure = false ∧
      s.ctl.iccCtlrEl1Cbpr = true ∧ (PhysicalAtEl1 s ∨ PhysicalAtEl2 s)

/-! ## What a completed access does -/

/-- A virtual access, and no other, goes to `ICV_BPR1_EL1`, whatever the common binary point controls and
`SCR_EL3.IRQ` hold: it touches no copy, and a write hands over `X[t]` and updates `ICH_VMCR_EL2.VBPR1` (R56, R20). That
a read leaves `ICV_BPR1_EL1` and `VBPR1` as they were (R33, derived by the spec), and the free values a write leaves
in both, are the model's log 17; the list of hand-overs is its log 18. -/
def Obligations.VirtualAccessGoesToIcv : Prop :=
  ∀ s : State,
    (resolve s.params s.ctl = .virtual ↔ VirtualAtEl1 s) ∧
    (VirtualAtEl1 s → ∀ t, MrsReads t s s.ext.icvBpr1 ∧ MsrWritesVirtual t s)

/-- R53, R58, R60: `MRS` at EL3 reads the copy `SCR_EL3.NS` selects, whatever the common binary point controls hold.
-/
def Obligations.MrsAtEl3ReadsSelectedCopy : Prop :=
  ∀ (t : RegNum) (s : State), PhysicalAtEl3 s →
    (s.ctl.scrEl3Ns = false → MrsReads t s (Extended s.bpr1.s)) ∧
    (s.ctl.scrEl3Ns = true → MrsReads t s (Extended s.bpr1.ns))

/-- R53, R59, R61, R16: `MSR` at EL3 writes the copy `SCR_EL3.NS` selects, clamped to that copy's minimum, whatever
the common binary point controls hold. -/
def Obligations.MsrAtEl3WritesSelectedCopy : Prop :=
  ∀ (t : RegNum) (s : State), PhysicalAtEl3 s →
    (s.ctl.scrEl3Ns = false → MsrStores t s .s s.params.bpr0Min.val) ∧
    (s.ctl.scrEl3Ns = true → MsrStores t s .ns (s.params.bpr0Min.val + 1))

/-- R52, R57, R58: `MRS` at EL2 with EL3 implemented: the Secure copy whatever `CBPR_EL1S` holds; the Non-secure copy,
or with `CBPR_EL1NS` at 1 the mirror of `ICC_BPR0_EL1`. -/
def Obligations.MrsAtEl2WithEl3 : Prop :=
  ∀ (t : RegNum) (s : State), PhysicalAtEl2 s → s.params.haveEL3 = true →
    (s.ctl.scrEl3Ns = false → MrsReads t s (Extended s.bpr1.s)) ∧
    (s.ctl.scrEl3Ns = true → s.ctl.iccCtlrEl3CbprEl1Ns = false → MrsReads t s (Extended s.bpr1.ns)) ∧
    (s.ctl.scrEl3Ns = true → s.ctl.iccCtlrEl3CbprEl1Ns = true → MrsReads t s (Bpr0PlusOne s))

/-- R52, R57, R59: `MSR` at EL2 with EL3 implemented, in the same three cases; under `CBPR_EL1NS` it is ignored. -/
def Obligations.MsrAtEl2WithEl3 : Prop :=
  ∀ (t : RegNum) (s : State), PhysicalAtEl2 s → s.params.haveEL3 = true →
    (s.ctl.scrEl3Ns = false → MsrStores t s .s s.params.bpr0Min.val) ∧
    (s.ctl.scrEl3Ns = true → s.ctl.iccCtlrEl3CbprEl1Ns = false → MsrStores t s .ns (s.params.bpr0Min.val + 1)) ∧
    (s.ctl.scrEl3Ns = true → s.ctl.iccCtlrEl3CbprEl1Ns = true → MsrIgnored t s)

/-- R51, R55, R57, R58: `MRS` at EL1 with EL3 implemented: each copy itself, or with its common binary point control
at 1 the state of `ICC_BPR0_EL1` (Secure) or its mirror (Non-secure). -/
def Obligations.MrsAtEl1WithEl3 : Prop :=
  ∀ (t : RegNum) (s : State), PhysicalAtEl1 s → s.params.haveEL3 = true →
    (s.ctl.scrEl3Ns = false → s.ctl.iccCtlrEl3CbprEl1S = false → MrsReads t s (Extended s.bpr1.s)) ∧
    (s.ctl.scrEl3Ns = false → s.ctl.iccCtlrEl3CbprEl1S = true → MrsReads t s s.ext.iccBpr0) ∧
    (s.ctl.scrEl3Ns = true → s.ctl.iccCtlrEl3CbprEl1Ns = false → MrsReads t s (Extended s.bpr1.ns)) ∧
    (s.ctl.scrEl3Ns = true → s.ctl.iccCtlrEl3CbprEl1Ns = true → MrsReads t s (Bpr0PlusOne s))

/-- R51, R55, R57, R59: `MSR` at EL1 with EL3 implemented, in the same four cases: a clamped store, a write handed to
`ICC_BPR0_EL1` (its value after it and the hand-over are log 16 and 18), a clamped store, an ignored write. -/
def Obligations.MsrAtEl1WithEl3 : Prop :=
  ∀ (t : RegNum) (s : State), PhysicalAtEl1 s → s.params.haveEL3 = true →
    (s.ctl.scrEl3Ns = false → s.ctl.iccCtlrEl3CbprEl1S = false → MsrStores t s .s s.params.bpr0Min.val) ∧
    (s.ctl.scrEl3Ns = false → s.ctl.iccCtlrEl3CbprEl1S = true → MsrWritesBpr0 t s) ∧
    (s.ctl.scrEl3Ns = true → s.ctl.iccCtlrEl3CbprEl1Ns = false → MsrStores t s .ns (s.params.bpr0Min.val + 1)) ∧
    (s.ctl.scrEl3Ns = true → s.ctl.iccCtlrEl3CbprEl1Ns = true → MsrIgnored t s)

/-- R51, R52, R62, R58: `MRS` without EL3: the unbanked copy; with `ICC_CTLR_EL1.CBPR` at 1 the mirror for a
Non-secure access and the named refusal for a Secure one. -/
def Obligations.MrsWithoutEl3 : Prop :=
  ∀ (t : RegNum) (s : State), PhysicalAtEl1 s ∨ PhysicalAtEl2 s → s.params.haveEL3 = false →
    (s.ctl.iccCtlrEl1Cbpr = false → MrsReads t s (Extended s.bpr1.u)) ∧
    (s.ctl.iccCtlrEl1Cbpr = true → s.params.noEl3NonSecure = true → MrsReads t s (Bpr0PlusOne s)) ∧
    (s.ctl.iccCtlrEl1Cbpr = true → s.params.noEl3NonSecure = false →
      exec (.mrs t) s = .refused .secureAccessWithoutEl3)

/-- R51, R52, R62, R59, R16: `MSR` without EL3, in the same three cases; the minimum is the open `BPR1_MIN_NOEL3`. -/
def Obligations.MsrWithoutEl3 : Prop :=
  ∀ (t : RegNum) (s : State), PhysicalAtEl1 s ∨ PhysicalAtEl2 s → s.params.haveEL3 = false →
    (s.ctl.iccCtlrEl1Cbpr = false → MsrStores t s .u (Minimum s.params .u)) ∧
    (s.ctl.iccCtlrEl1Cbpr = true → s.params.noEl3NonSecure = true → MsrIgnored t s) ∧
    (s.ctl.iccCtlrEl1Cbpr = true → s.params.noEl3NonSecure = false →
      exec (.msr t) s = .refused .secureAccessWithoutEl3)

/-- The source's table of Non-secure accesses under `CBPR_EL1NS` (R57), cell by cell, in the states where section 6 of
40_sysreg_access.md compares it with the pseudocode; in every state the rule composed of both, which is decision D20
of the spec (log 22); and an access at EL3 reaches the copy itself. What the virtual cells do is R56 with the model's
log 17 and 18. -/
def Obligations.NonSecureCommonBinaryPointTable : Prop :=
  ∀ s : State, s.params.haveEL3 = true → s.ctl.iccCtlrEl3CbprEl1Ns = true → s.ctl.scrEl3Ns = true →
    (TableComparable s → s.ctl.el = .el1 ∨ s.ctl.el = .el2 →
      (s.ctl.hcrEl2Imo = false → s.ctl.scrEl3Irq = false → Mirrors s) ∧
      (s.ctl.hcrEl2Imo = false → s.ctl.scrEl3Irq = true → Traps s .el3) ∧
      (s.ctl.hcrEl2Imo = true → s.ctl.scrEl3Irq = false →
        (s.ctl.el = .el1 → GoesVirtual s) ∧ (s.ctl.el = .el2 → Mirrors s)) ∧
      (s.ctl.hcrEl2Imo = true → s.ctl.scrEl3Irq = true →
        (s.ctl.el = .el1 → GoesVirtual s) ∧ (s.ctl.el = .el2 → Traps s .el3))) ∧
    (s.ctl.el = .el1 ∨ s.ctl.el = .el2 → resolve s.params s.ctl = .phys .ns → Mirrors s) ∧
    (PhysicalAtEl3 s → GoesDirect s .ns)

/-- R62 (its refusal is decision D10 of the spec, log 23; its composition with the pseudocode D20, log 22; the virtual
cells are R56 with log 17 and 18): the source's table without EL3 under `ICC_CTLR_EL1.CBPR`,
for Non-secure accesses, cell by cell, in the states where it and the pseudocode can be compared; in every state the
composed rule; and the refusal of a Secure access. -/
def Obligations.CommonBinaryPointTableWithoutEl3 : Prop :=
  ∀ s : State, s.params.haveEL3 = false → s.ctl.iccCtlrEl1Cbpr = true → s.ctl.el = .el1 ∨ s.ctl.el = .el2 →
    (s.params.noEl3NonSecure = true →
      (TableComparable s →
        (s.ctl.hcrEl2Imo = false → Mirrors s) ∧
        (s.ctl.hcrEl2Imo = true → (s.ctl.el = .el1 → GoesVirtual s) ∧ (s.ctl.el = .el2 → Mirrors s))) ∧
      (resolve s.params s.ctl = .phys .u → Mirrors s)) ∧
    (s.params.noEl3NonSecure = false → resolve s.params s.ctl = .phys .u →
      ∀ i, exec i s = .refused .secureAccessWithoutEl3)

/-- R54, R63 (decision D9 of the spec, log 23): the mode of a physical access is what the field prose says of a Secure
or a Non-secure access at that level, and with EL3 the Security state of an access at EL1 or EL2 is that of the copy
it names. -/
def Obligations.PhysicalModeFollowsFieldProse : Prop :=
  ∀ (s : State) (c : Copy), s.El3OnlyIfImplemented → resolve s.params s.ctl = .phys c →
    (physMode s.params s.ctl c = .aliasBpr0 ↔
      s.params.haveEL3 = true ∧ accessSecurity s.params s.ctl = some .secure ∧ s.ctl.el = .el1 ∧
      s.ctl.iccCtlrEl3CbprEl1S = true) ∧
    (physMode s.params s.ctl c = .mirrorBpr0 ↔
      accessSecurity s.params s.ctl = some .nonSecure ∧ (s.ctl.el = .el1 ∨ s.ctl.el = .el2) ∧
      (if s.params.haveEL3 = true then s.ctl.iccCtlrEl3CbprEl1Ns else s.ctl.iccCtlrEl1Cbpr) = true) ∧
    (physMode s.params s.ctl c = .refused ↔
      s.params.haveEL3 = false ∧ accessSecurity s.params s.ctl = some .secure ∧ s.ctl.iccCtlrEl1Cbpr = true) ∧
    (s.params.haveEL3 = true → (s.ctl.el = .el1 ∨ s.ctl.el = .el2) →
      (accessSecurity s.params s.ctl = some .secure ↔ c = .s) ∧
      (accessSecurity s.params s.ctl = some .nonSecure ↔ c = .ns))

/-! ## The stored field -/

/-- R17 (that an `MSR` from number 31 writes 0 is decision D4 of the spec, log 12; the pc is D3, log 13): a write that
reaches the stored field of copy `c` stores the maximum of the value and `MIN(c)`; no exception
is raised and nothing else is written. -/
def Obligations.DirectWriteIsClamped : Prop :=
  ∀ (t : RegNum) (s : State) (c : Copy), ReachesCell s c → MsrStores t s c (Minimum s.params c)

/-- R12 (its write half is decision D6 of the spec, log 20): bits [63:3] of every copy read as 0, and a write ignores
the value presented for them: two values that agree in bits [2:0] leave the same copies and stop in the same way, if
at all. -/
def Obligations.ReservedBitsReadZeroAndIgnoreWrites : Prop :=
  (∀ (t : RegNum) (s s' : State) (c : Copy), ReachesCell s c → exec (.mrs t) s = .next s' →
    s'.readX t >>> 3 = 0) ∧
  (∀ (s : State) (c : Copy), s.bpr1Value c >>> 3 = 0) ∧
  (∀ (t : RegNum) (s : State) (v w : Word), v.toNat % 8 = w.toNat % 8 →
    match exec (.msr t) (s.writeX t v) with
    | .next a => ∃ b, exec (.msr t) (s.writeX t w) = .next b ∧ b.bpr1 = a.bpr1
    | .fault f => exec (.msr t) (s.writeX t w) = .fault f
    | .refused r => exec (.msr t) (s.writeX t w) = .refused r)

/-- R33 (derived by the spec from R60; for the external registers log 16 and 17): an `MRS` changes no copy and no
external register, and reading twice with no write between returns the same value twice, whatever the access reaches.
-/
def Obligations.ReadsAreIdempotent : Prop :=
  ∀ (t u : RegNum) (s s₁ : State), exec (.mrs t) s = .next s₁ →
    s₁.bpr1 = s.bpr1 ∧ s₁.ext = s.ext ∧
    ∃ s₂, exec (.mrs u) s₁ = .next s₂ ∧ (t ≠ 31 → u ≠ 31 → s₂.readX u = s₁.readX t)

/-- R34, R93 (decision D17 of the spec, log 26): an `MRS` right after an `MSR` that reaches a stored field observes
the value the `MSR` stored. -/
def Obligations.ReadAfterWriteSeesStoredValue : Prop :=
  ∀ (t u : RegNum) (s s₁ : State) (c : Copy), ReachesCell s c → exec (.msr t) s = .next s₁ →
    MrsReads u s₁ (BitVec.ofNat 64 (max ((s.readX t).toNat % 8) (Minimum s.params c)))

/-- R61: writing back the value just read changes no copy once the stored value is at least the minimum. -/
def Obligations.WritingBackIsIdempotent : Prop :=
  ∀ (t : RegNum) (s s₁ : State) (c : Copy), t ≠ 31 → ReachesCell s c → s.LegalCopy c →
    exec (.mrs t) s = .next s₁ → ∃ s₂, exec (.msr t) s₁ = .next s₂ ∧ s₂.bpr1 = s.bpr1

/-! ## Frames -/

/-- R60: a completed `MRS` writes `X[t]` and the pc, and nothing else: no other register, no copy, no external
register, no input (`PSTATE.EL` among them), no parameter, no program word. -/
def Obligations.MrsChangesOnlyItsRegister : Prop :=
  ∀ (t : RegNum) (s s' : State), exec (.mrs t) s = .next s' → MrsFrame t s s' ∧ PcMovesOn s s'

/-- R61, R59, R56, in the composition of decision D20 (log 22): a completed `MSR` writes no general register, input,
parameter or program word, and beside the pc only what its access reaches: the stored field of the copy it names, and
no other copy, in mode `Direct`; nothing in mode `MirrorBPR0`; `ICC_BPR0_EL1` in mode `AliasBPR0` (log 16); and
`ICV_BPR1_EL1` with `ICH_VMCR_EL2.VBPR1` on a virtual access (log 17). The hand-over list is the model's own (log 18).
-/
def Obligations.MsrChangesAtMostOneTarget : Prop :=
  ∀ (t : RegNum) (s s' : State), exec (.msr t) s = .next s' →
    MsrFrame s s' ∧ PcMovesOn s s' ∧
    ((∃ c, ReachesCell s c ∧ s'.ext = s.ext ∧ ∀ d, d ≠ c → s'.bpr1.get d = s.bpr1.get d) ∨
     (∃ c, resolve s.params s.ctl = .phys c ∧ physMode s.params s.ctl c = .mirrorBpr0 ∧
       s'.bpr1 = s.bpr1 ∧ s'.ext = s.ext) ∨
     (∃ c, resolve s.params s.ctl = .phys c ∧ physMode s.params s.ctl c = .aliasBpr0 ∧
       s'.bpr1 = s.bpr1 ∧ s'.ext.icvBpr1 = s.ext.icvBpr1 ∧ s'.ext.ichVmcrVbpr1 = s.ext.ichVmcrVbpr1 ∧
       s'.ext.handed = .iccBpr0 (s.readX t) :: s.ext.handed) ∨
     (resolve s.params s.ctl = .virtual ∧ s'.bpr1 = s.bpr1 ∧ s'.ext.iccBpr0 = s.ext.iccBpr0 ∧
       s'.ext.handed = .icvBpr1 (s.readX t) :: s.ext.handed))

/-! ## Invariants and isolation -/

/-- R26 (derived by the spec from R17, R21 and R59): once a write has reached copy `c`, its value is legal in every
state reached from there without a reset, whatever the surrounding PE does between steps to all but the copies and the
parameters; and a reset can leave a copy whose minimum is not 0 below it. -/
def Obligations.WrittenCopyStaysLegal : Prop :=
  (∀ (t : RegNum) (s s₁ s₂ : State) (c : Copy), ReachesCell s c → exec (.msr t) s = .next s₁ → Reaches s₁ s₂ →
    Minimum s₂.params c ≤ (s₂.bpr1.get c).toNat ∧ (s₂.bpr1.get c).toNat ≤ 7) ∧
  (∀ (s : State) (c : Copy), copyExists s.params c = true → 0 < Minimum s.params c →
    ∃ draw, ¬(s.applyReset draw).LegalCopy c)

/-- R16, R17: every step keeps a legal copy legal, from every state that holds one. -/
def Obligations.StepsKeepCopiesLegal : Prop :=
  ∀ (s s' : State) (c : Copy), s.LegalCopy c → step s = .next s' → s'.LegalCopy c

/-- R53: that EL3 is the current level only where it is implemented is kept by every step, and by every reset. -/
def Obligations.El3OnlyIfImplementedIsKept : Prop :=
  ∀ (s : State), s.El3OnlyIfImplemented →
    (∀ s', step s = .next s' → s'.El3OnlyIfImplemented) ∧ (∀ draw, (s.applyReset draw).El3OnlyIfImplemented)

/-- The same invariant holds of the state after reset. Its level and its parameters there are the model's choice (log
4, log 5). -/
def Obligations.El3OnlyIfImplementedAtReset : Prop := State.reset.El3OnlyIfImplemented

/-- R13, R14: a copy that does not exist on the machine is neither written nor read by any step: a step from the state
with another value there answers the same, with that value still there. -/
def Obligations.AbsentCopiesStayUntouched : Prop :=
  ∀ (s : State) (c : Copy) (v : BinaryPoint), s.El3OnlyIfImplemented → copyExists s.params c = false →
    match step s with
    | .next s' => s'.bpr1.get c = s.bpr1.get c ∧ step (s.setBpr1 c v) = .next (s'.setBpr1 c v)
    | .fault f => step (s.setBpr1 c v) = .fault f
    | .refused r => step (s.setBpr1 c v) = .refused r

/-- R78: at EL1 or EL2 the copy of the other Security state can be neither changed nor learned: a step leaves it, and
a step from the state with another value there answers the same, with that value still there. -/
def Obligations.OtherSecurityStateIsIsolated : Prop :=
  ∀ (s : State) (c : Copy) (v : BinaryPoint), s.params.haveEL3 = true → (s.ctl.el = .el1 ∨ s.ctl.el = .el2) →
    c = (if s.ctl.scrEl3Ns = true then Copy.s else Copy.ns) →
    match step s with
    | .next s' => s'.bpr1.get c = s.bpr1.get c ∧ step (s.setBpr1 c v) = .next (s'.setBpr1 c v)
    | .fault f => step (s.setBpr1 c v) = .fault f
    | .refused r => step (s.setBpr1 c v) = .refused r

/-- R78, R16: Non-secure software never selects a finer split than `BPR0_MIN + 1`: a step at EL1 or EL2 with
`SCR_EL3.NS` at 1 that changes a copy leaves the Non-secure copy at least there. -/
def Obligations.NonSecureWritesStayAboveMinimum : Prop :=
  ∀ s s' : State, s.params.haveEL3 = true → (s.ctl.el = .el1 ∨ s.ctl.el = .el2) → s.ctl.scrEl3Ns = true →
    step s = .next s' → s'.bpr1 ≠ s.bpr1 → s.params.bpr0Min.val + 1 ≤ s'.bpr1.ns.toNat

/-! ## Reset and views -/

/-- R90, R91 (decisions D5 and D19 of the spec, log 11 and 27): a reset gives every copy that exists the value drawn
for it, any of the eight, independently per copy; bits [63:3] are 0 after it; and this hardware changes nothing else.
-/
def Obligations.ResetDrawsEveryCopy : Prop :=
  (∀ (s : State) (draw : Copy → BinaryPoint) (c : Copy),
    (copyExists s.params c = true → (s.applyReset draw).bpr1.get c = draw c) ∧
    (copyExists s.params c = false → (s.applyReset draw).bpr1.get c = s.bpr1.get c) ∧
    (s.applyReset draw).bpr1Value c >>> 3 = 0) ∧
  (∀ (s : State) (a b : BinaryPoint), ∃ draw,
    (s.params.haveEL3 = true → (s.applyReset draw).bpr1.s = a ∧ (s.applyReset draw).bpr1.ns = b) ∧
    (s.params.haveEL3 = false → (s.applyReset draw).bpr1.u = a)) ∧
  (∀ (s : State) (draw : Copy → BinaryPoint), ∃ cells, s.applyReset draw = { s with bpr1 := cells })

/-- R15 (for the unbanked copy decision D22, log 25): each copy of the AArch32 register `ICC_BPR1` is bits [31:0] of
the same copy of `ICC_BPR1_EL1`: bits [2:0] are the stored field and bits [31:3] are 0; bits [63:32] of the AArch64
register are 0. -/
def Obligations.AArch32RegisterIsSameStorage : Prop :=
  ∀ (s : State) (c : Copy),
    s.iccBpr1AArch32 c = (s.bpr1Value c).extractLsb' 0 32 ∧
    (s.iccBpr1AArch32 c).extractLsb' 0 3 = s.bpr1.get c ∧ s.iccBpr1AArch32 c >>> 3 = 0 ∧
    s.bpr1Value c >>> 32 = 0

/-- R18, R8 (that the control is CBPR is derived by the spec; the place of the split is a free value, the open
parameter `GroupPrioritySplit` of R3 and R19; log 24): with the copy's common binary point control at 0 there is a
split, and the stored binary point of that copy says where; at 1 the register has no say. Wherever it is, the split is
into an upper and a lower part that together are the whole 8-bit priority. -/
def Obligations.PrioritySplitLosesNothing : Prop :=
  ∀ (s : State) (c : Copy) (P : Priority),
    (∀ n : Fin 9, (splitAt n P).group.toNat * 2 ^ n.val + (splitAt n P).sub.toNat = P.toNat ∧
      (splitAt n P).sub.toNat < 2 ^ n.val ∧ (splitAt n P).group.toNat < 2 ^ (8 - n.val)) ∧
    (∀ sp, s.group1Split c P = some sp → ∃ n : Fin 9, sp = splitAt n P) ∧
    (separateBinaryPoint s.ctl c = true →
      s.group1Split c P = some (splitAt (Config.groupPrioritySplit c (s.bpr1.get c)) P)) ∧
    (separateBinaryPoint s.ctl c = false → s.group1Split c P = none)
end

