-- ==== Sys2Proof/Laws/State.lean ====
section
/-! SUPPORT. One lemma per field per update of the state, each true by unfolding, so that no later proof unfolds a
record update. -/

namespace Sys2Proof.Machine

section
variable (s : State) (t : RegNum) (v : Word)
@[simp] theorem State.writeX_params : (s.writeX t v).params = s.params := rfl
@[simp] theorem State.writeX_program : (s.writeX t v).program = s.program := rfl
@[simp] theorem State.writeX_base : (s.writeX t v).base = s.base := rfl
@[simp] theorem State.writeX_completed : (s.writeX t v).completed = s.completed := rfl
@[simp] theorem State.writeX_x : (s.writeX t v).x = writeReg s.x t v := rfl
@[simp] theorem State.writeX_pc : (s.writeX t v).pc = s.pc := rfl
@[simp] theorem State.writeX_ctl : (s.writeX t v).ctl = s.ctl := rfl
@[simp] theorem State.writeX_ext : (s.writeX t v).ext = s.ext := rfl
@[simp] theorem State.writeX_bpr1 : (s.writeX t v).bpr1 = s.bpr1 := rfl
end

section
variable (s : State) (c : Copy) (v : BinaryPoint)
@[simp] theorem State.setBpr1_params : (s.setBpr1 c v).params = s.params := rfl
@[simp] theorem State.setBpr1_program : (s.setBpr1 c v).program = s.program := rfl
@[simp] theorem State.setBpr1_base : (s.setBpr1 c v).base = s.base := rfl
@[simp] theorem State.setBpr1_completed : (s.setBpr1 c v).completed = s.completed := rfl
@[simp] theorem State.setBpr1_x : (s.setBpr1 c v).x = s.x := rfl
@[simp] theorem State.setBpr1_pc : (s.setBpr1 c v).pc = s.pc := rfl
@[simp] theorem State.setBpr1_ctl : (s.setBpr1 c v).ctl = s.ctl := rfl
@[simp] theorem State.setBpr1_ext : (s.setBpr1 c v).ext = s.ext := rfl
@[simp] theorem State.setBpr1_bpr1 : (s.setBpr1 c v).bpr1 = s.bpr1.set c v := rfl
end

section
variable (s : State) (c : Copy) (w : BinaryPoint)
@[simp] theorem State.writeBpr1_params : (s.writeBpr1 c w).params = s.params := rfl
@[simp] theorem State.writeBpr1_program : (s.writeBpr1 c w).program = s.program := rfl
@[simp] theorem State.writeBpr1_base : (s.writeBpr1 c w).base = s.base := rfl
@[simp] theorem State.writeBpr1_completed : (s.writeBpr1 c w).completed = s.completed := rfl
@[simp] theorem State.writeBpr1_x : (s.writeBpr1 c w).x = s.x := rfl
@[simp] theorem State.writeBpr1_pc : (s.writeBpr1 c w).pc = s.pc := rfl
@[simp] theorem State.writeBpr1_ctl : (s.writeBpr1 c w).ctl = s.ctl := rfl
@[simp] theorem State.writeBpr1_ext : (s.writeBpr1 c w).ext = s.ext := rfl
@[simp] theorem State.writeBpr1_bpr1 : (s.writeBpr1 c w).bpr1 = s.bpr1.set c (clampTo (minOf s.params c) w) := rfl
end

section
variable (s : State)
@[simp] theorem State.advance_params : (s.advance).params = s.params := rfl
@[simp] theorem State.advance_program : (s.advance).program = s.program := rfl
@[simp] theorem State.advance_base : (s.advance).base = s.base := rfl
@[simp] theorem State.advance_completed : (s.advance).completed = s.completed + 1 := rfl
@[simp] theorem State.advance_x : (s.advance).x = s.x := rfl
@[simp] theorem State.advance_pc : (s.advance).pc = nextPc s.pc := rfl
@[simp] theorem State.advance_ctl : (s.advance).ctl = s.ctl := rfl
@[simp] theorem State.advance_ext : (s.advance).ext = s.ext := rfl
@[simp] theorem State.advance_bpr1 : (s.advance).bpr1 = s.bpr1 := rfl
end

section
variable (s : State) (v : Word)
@[simp] theorem State.writeIccBpr0_params : (s.writeIccBpr0 v).params = s.params := rfl
@[simp] theorem State.writeIccBpr0_program : (s.writeIccBpr0 v).program = s.program := rfl
@[simp] theorem State.writeIccBpr0_base : (s.writeIccBpr0 v).base = s.base := rfl
@[simp] theorem State.writeIccBpr0_completed : (s.writeIccBpr0 v).completed = s.completed := rfl
@[simp] theorem State.writeIccBpr0_x : (s.writeIccBpr0 v).x = s.x := rfl
@[simp] theorem State.writeIccBpr0_pc : (s.writeIccBpr0 v).pc = s.pc := rfl
@[simp] theorem State.writeIccBpr0_ctl : (s.writeIccBpr0 v).ctl = s.ctl := rfl
@[simp] theorem State.writeIccBpr0_bpr1 : (s.writeIccBpr0 v).bpr1 = s.bpr1 := rfl
end

section
variable (s : State) (v : Word)
@[simp] theorem State.writeIcvBpr1_params : (s.writeIcvBpr1 v).params = s.params := rfl
@[simp] theorem State.writeIcvBpr1_program : (s.writeIcvBpr1 v).program = s.program := rfl
@[simp] theorem State.writeIcvBpr1_base : (s.writeIcvBpr1 v).base = s.base := rfl
@[simp] theorem State.writeIcvBpr1_completed : (s.writeIcvBpr1 v).completed = s.completed := rfl
@[simp] theorem State.writeIcvBpr1_x : (s.writeIcvBpr1 v).x = s.x := rfl
@[simp] theorem State.writeIcvBpr1_pc : (s.writeIcvBpr1 v).pc = s.pc := rfl
@[simp] theorem State.writeIcvBpr1_ctl : (s.writeIcvBpr1 v).ctl = s.ctl := rfl
@[simp] theorem State.writeIcvBpr1_bpr1 : (s.writeIcvBpr1 v).bpr1 = s.bpr1 := rfl
end

section
variable (s : State) (v : Word)
@[simp] theorem State.writeIccBpr0_iccBpr0 : (s.writeIccBpr0 v).ext.iccBpr0 = Config.iccBpr0AfterWrite s.params s.ctl s.ext v := rfl
@[simp] theorem State.writeIccBpr0_icvBpr1 : (s.writeIccBpr0 v).ext.icvBpr1 = s.ext.icvBpr1 := rfl
@[simp] theorem State.writeIccBpr0_ichVmcrVbpr1 : (s.writeIccBpr0 v).ext.ichVmcrVbpr1 = s.ext.ichVmcrVbpr1 := rfl
@[simp] theorem State.writeIccBpr0_handed : (s.writeIccBpr0 v).ext.handed = .iccBpr0 v :: s.ext.handed := rfl
end

section
variable (s : State) (v : Word)
@[simp] theorem State.writeIcvBpr1_iccBpr0 : (s.writeIcvBpr1 v).ext.iccBpr0 = s.ext.iccBpr0 := rfl
@[simp] theorem State.writeIcvBpr1_icvBpr1 : (s.writeIcvBpr1 v).ext.icvBpr1 = Config.icvBpr1AfterWrite s.params s.ctl s.ext v := rfl
@[simp] theorem State.writeIcvBpr1_ichVmcrVbpr1 : (s.writeIcvBpr1 v).ext.ichVmcrVbpr1 = Config.vbpr1AfterWrite s.params s.ctl s.ext v := rfl
@[simp] theorem State.writeIcvBpr1_handed : (s.writeIcvBpr1 v).ext.handed = .icvBpr1 v :: s.ext.handed := rfl
end

section
variable (s : State) (ctl : Controls) (ext : ExtRegs)
@[simp] theorem State.supply_params : (s.supply ctl ext).params = s.params := rfl
@[simp] theorem State.supply_program : (s.supply ctl ext).program = s.program := rfl
@[simp] theorem State.supply_base : (s.supply ctl ext).base = s.base := rfl
@[simp] theorem State.supply_completed : (s.supply ctl ext).completed = s.completed := rfl
@[simp] theorem State.supply_x : (s.supply ctl ext).x = s.x := rfl
@[simp] theorem State.supply_pc : (s.supply ctl ext).pc = s.pc := rfl
@[simp] theorem State.supply_ctl : (s.supply ctl ext).ctl = ctl := rfl
@[simp] theorem State.supply_ext : (s.supply ctl ext).ext = ext := rfl
@[simp] theorem State.supply_bpr1 : (s.supply ctl ext).bpr1 = s.bpr1 := rfl
end

section
variable (s : State) (draw : Copy → BinaryPoint)
@[simp] theorem State.applyReset_params : (s.applyReset draw).params = s.params := rfl
@[simp] theorem State.applyReset_program : (s.applyReset draw).program = s.program := rfl
@[simp] theorem State.applyReset_base : (s.applyReset draw).base = s.base := rfl
@[simp] theorem State.applyReset_completed : (s.applyReset draw).completed = s.completed := rfl
@[simp] theorem State.applyReset_x : (s.applyReset draw).x = s.x := rfl
@[simp] theorem State.applyReset_pc : (s.applyReset draw).pc = s.pc := rfl
@[simp] theorem State.applyReset_ctl : (s.applyReset draw).ctl = s.ctl := rfl
@[simp] theorem State.applyReset_ext : (s.applyReset draw).ext = s.ext := rfl
end

section
variable (s : State) (ws : List InstrWord)
@[simp] theorem State.load_params : (s.load ws).params = s.params := rfl
@[simp] theorem State.load_x : (s.load ws).x = s.x := rfl
@[simp] theorem State.load_ctl : (s.load ws).ctl = s.ctl := rfl
@[simp] theorem State.load_ext : (s.load ws).ext = s.ext := rfl
@[simp] theorem State.load_bpr1 : (s.load ws).bpr1 = s.bpr1 := rfl
@[simp] theorem State.load_program : (s.load ws).program = ws := rfl
@[simp] theorem State.load_completed : (s.load ws).completed = 0 := rfl
end

end Sys2Proof.Machine
end

