-- ==== Sys2Proof/Laws/Ops.lean ====
section
/-! SUPPORT. What each shared operation can do, said once: the register operand, the 3-bit arithmetic, the copies,
the pc, the physical accesses, and one inversion lemma for each of the two instructions. -/

namespace Sys2Proof.Machine

/-! ### The register operand -/

theorem readReg_xzr (x : Vector Word 31) : readReg x 31 = 0 := rfl

@[simp] theorem State.readX_xzr (s : State) : s.readX 31 = 0 := rfl

theorem RegNum.lt_of_ne_xzr {t : RegNum} (h : t ≠ 31) : t.toNat < 31 := by
  have h31 : t.toNat ≠ 31 := fun he => h (BitVec.eq_of_toNat_eq he)
  have := t.isLt
  omega

theorem writeReg_xzr (x : Vector Word 31) (v : Word) : writeReg x 31 v = x := rfl

theorem readReg_writeReg_same (x : Vector Word 31) {t : RegNum} (v : Word) (h : t ≠ 31) :
    readReg (writeReg x t v) t = v := by
  simp [readReg, writeReg, RegNum.lt_of_ne_xzr h]

theorem readReg_writeReg_other (x : Vector Word 31) {t u : RegNum} (v : Word) (h : u ≠ t) :
    readReg (writeReg x t v) u = readReg x u := by
  have hn : t.toNat ≠ u.toNat := fun he => h (BitVec.eq_of_toNat_eq he.symm)
  unfold readReg writeReg
  by_cases ht : t.toNat < 31 <;> by_cases hu : u.toNat < 31 <;> simp [ht, hu, hn]

/-- A write of register `t` is read back, unless `t` is `XZR`, which reads as 0 (R23). -/
theorem State.readX_writeX_same (s : State) (t : RegNum) (v : Word) :
    (s.writeX t v).readX t = if t = 31 then 0 else v := by
  split
  · subst t; rfl
  · exact readReg_writeReg_same s.x v ‹_›

/-- A write of register `t` leaves every other register (R23). -/
theorem State.readX_writeX_other (s : State) {t u : RegNum} (v : Word) (h : u ≠ t) :
    (s.writeX t v).readX u = s.readX u :=
  readReg_writeReg_other s.x v h

@[simp] theorem State.readX_advance (s : State) (t : RegNum) : s.advance.readX t = s.readX t := rfl
@[simp] theorem State.readX_writeBpr1 (s : State) (c : Copy) (w : BinaryPoint) (t : RegNum) :
    (s.writeBpr1 c w).readX t = s.readX t := rfl
@[simp] theorem State.readX_setBpr1 (s : State) (c : Copy) (w : BinaryPoint) (t : RegNum) :
    (s.setBpr1 c w).readX t = s.readX t := rfl
@[simp] theorem State.readX_writeIccBpr0 (s : State) (v : Word) (t : RegNum) :
    (s.writeIccBpr0 v).readX t = s.readX t := rfl
@[simp] theorem State.readX_writeIcvBpr1 (s : State) (v : Word) (t : RegNum) :
    (s.writeIcvBpr1 v).readX t = s.readX t := rfl

/-! ### The 3-bit arithmetic -/

theorem binaryPoint_toNat (v : Word) : (binaryPoint v).toNat = v.toNat % 8 := by
  simp [binaryPoint]

@[simp] theorem zext64_toNat (b : BinaryPoint) : (zext64 b).toNat = b.toNat := by
  have := b.isLt
  simp only [zext64, BitVec.toNat_setWidth]
  omega

@[simp] theorem binaryPoint_zext64 (b : BinaryPoint) : binaryPoint (zext64 b) = b := by
  apply BitVec.eq_of_toNat_eq
  have := b.isLt
  rw [binaryPoint_toNat, zext64_toNat]
  omega

/-- The stored value is the maximum of the two, as R17 has it, wherever the minimum fits the field. -/
theorem clampTo_toNat {m : Nat} (hm : m ≤ 7) (w : BinaryPoint) : (clampTo m w).toNat = max w.toNat m := by
  have := w.isLt
  simp only [clampTo, BitVec.toNat_ofNat]
  omega

/-- "ICC_BPR0_EL1 + 1 saturated to 0b111" (R58). -/
theorem mirrorValue_toNat (v : Word) : (mirrorValue v).toNat = min (v.toNat % 8 + 1) 7 := by
  simp only [mirrorValue, sat7, BitVec.toNat_ofNat, binaryPoint_toNat]
  split <;> omega

/-! ### The copies and their minimums -/

@[simp] theorem Bpr1Cells.get_set_same (b : Bpr1Cells) (c : Copy) (v : BinaryPoint) : (b.set c v).get c = v := by
  cases c <;> rfl

theorem Bpr1Cells.get_set_other (b : Bpr1Cells) {c d : Copy} (v : BinaryPoint) (h : d ≠ c) :
    (b.set c v).get d = b.get d := by
  cases c <;> cases d <;> first | rfl | exact absurd rfl h

/-- Every minimum fits the field (D7). -/
theorem minOf_le (p : Params) (c : Copy) : minOf p c ≤ 7 := by
  have := p.bpr0Min.isLt
  cases c
  · simp only [minOf]; omega
  · simp only [minOf]; omega
  · simp only [minOf]; split <;> omega

/-- A write that reaches copy `c` stores the maximum of the value and the copy's minimum (R17). -/
theorem writeBpr1_get_same (s : State) (c : Copy) (w : BinaryPoint) :
    ((s.writeBpr1 c w).bpr1.get c).toNat = max w.toNat (minOf s.params c) := by
  simp [clampTo_toNat (minOf_le s.params c)]

/-! ### The pc -/

/-- Below the top of the address space the pc moves on by 4 (R24). -/
theorem nextPc_toNat {pc : Word} (h : pc.toNat + 4 < 2 ^ 64) : (nextPc pc).toNat = pc.toNat + 4 := by
  simp only [nextPc, h, if_true, BitVec.toNat_ofNat]
  omega

/-! ### What an instruction can do -/

/-- The ways an access ends: an exception, the virtual register, or a copy. -/
theorem access_cases (s : State) (v : Outcome) (p : Copy → Outcome) :
    (resolve s.params s.ctl = .undefined ∧ access s v p = .fault .undefined) ∨
    (∃ el, resolve s.params s.ctl = .trap el ∧ access s v p = .fault (.systemAccessTrap el ecSysTrap)) ∨
    (resolve s.params s.ctl = .virtual ∧ access s v p = v) ∨
    (∃ c, resolve s.params s.ctl = .phys c ∧ access s v p = p c) := by
  unfold access
  cases h : resolve s.params s.ctl with
  | undefined => exact .inl ⟨rfl, rfl⟩
  | trap el => exact .inr (.inl ⟨el, rfl, rfl⟩)
  | virtual => exact .inr (.inr (.inl ⟨rfl, rfl⟩))
  | phys c => exact .inr (.inr (.inr ⟨c, rfl, rfl⟩))

/-- Everything an `MRS` that completes can do: one register takes the value read, and the pc moves on (R60). -/
theorem execMrs_next {t : RegNum} {s s' : State} (h : execMrs t s = .next s') :
    (resolve s.params s.ctl = .virtual ∧ s' = (s.writeX t s.ext.icvBpr1).advance) ∨
    (∃ c v, resolve s.params s.ctl = .phys c ∧ physRead s c = some v ∧ s' = (s.writeX t v).advance) := by
  unfold execMrs at h
  rcases access_cases s (complete (s.writeX t s.ext.icvBpr1)) (fun c => completeRead s t (physRead s c)) with
    ⟨-, he⟩ | ⟨_, -, he⟩ | ⟨hr, he⟩ | ⟨c, hr, he⟩ <;> rw [he] at h
  · cases h
  · cases h
  · cases h; exact .inl ⟨hr, rfl⟩
  · cases hv : physRead s c with
    | none => rw [hv] at h; cases h
    | some v => rw [hv] at h; cases h; exact .inr ⟨c, v, hr, hv, rfl⟩

/-- Everything an `MSR` that completes can do: the virtual register is written, or the write of the copy the access
names has its effect, and the pc moves on (R61). -/
theorem execMsr_next {t : RegNum} {s s' : State} (h : execMsr t s = .next s') :
    (resolve s.params s.ctl = .virtual ∧ s' = (s.writeIcvBpr1 (s.readX t)).advance) ∨
    (∃ c r, resolve s.params s.ctl = .phys c ∧ physWrite s c (s.readX t) = some r ∧ s' = r.advance) := by
  unfold execMsr at h
  rcases access_cases s (complete (s.writeIcvBpr1 (s.readX t))) (fun c => completeWrite (physWrite s c (s.readX t))) with
    ⟨-, he⟩ | ⟨_, -, he⟩ | ⟨hr, he⟩ | ⟨c, hr, he⟩ <;> rw [he] at h
  · cases h
  · cases h
  · cases h; exact .inl ⟨hr, rfl⟩
  · cases hv : physWrite s c (s.readX t) with
    | none => rw [hv] at h; cases h
    | some r => rw [hv] at h; cases h; exact .inr ⟨c, r, hr, hv, rfl⟩

/-- Everything the write of a copy can do (R59): the stored field, `ICC_BPR0_EL1`, or nothing. -/
theorem physWrite_cases {s r : State} {c : Copy} {v : Word} (h : physWrite s c v = some r) :
    (physMode s.params s.ctl c = .direct ∧ r = s.writeBpr1 c (binaryPoint v)) ∨
    (physMode s.params s.ctl c = .aliasBpr0 ∧ r = s.writeIccBpr0 v) ∨
    (physMode s.params s.ctl c = .mirrorBpr0 ∧ r = s) := by
  unfold physWrite at h
  cases hm : physMode s.params s.ctl c <;> rw [hm] at h <;> cases h
  · exact .inl ⟨rfl, rfl⟩
  · exact .inr (.inl ⟨rfl, rfl⟩)
  · exact .inr (.inr ⟨rfl, rfl⟩)

/-! ### The fetch and the step -/

/-- The next word of the program is what the next step runs, when the pc is at its address where it has one. -/
theorem fetch_eq_word {s : State} {w : InstrWord} (hw : s.program[s.completed]? = some w)
    (hp : s.nextAddress < 2 ^ 64 → s.pc.toNat % 4 = 0 ∧ s.pc.toNat = s.nextAddress) : s.fetch = .word w := by
  simp only [State.fetch, hw]
  by_cases h : s.nextAddress < 2 ^ 64
  · rw [if_pos h, if_neg (not_not.2 (hp h).1), if_pos (hp h).2]
  · rw [if_neg h]

/-- A word that is fetched is the next word of the program. -/
theorem next_of_fetch_word {s : State} {w : InstrWord} (h : s.fetch = .word w) : s.program[s.completed]? = some w := by
  unfold State.fetch at h
  cases hw : s.program[s.completed]? with
  | none => rw [hw] at h; cases h
  | some v =>
    rw [hw] at h
    dsimp only at h
    repeat' split at h
    all_goals first
      | cases h; rfl
      | cases h

/-- The program has ended exactly when its last word has completed, whatever the pc is (R95). -/
theorem fetch_eq_ended_iff {s : State} : s.fetch = .ended ↔ s.program.length ≤ s.completed := by
  rw [← List.getElem?_eq_none_iff]
  unfold State.fetch
  cases s.program[s.completed]? with
  | none => simp
  | some w =>
    simp only [reduceCtorEq, iff_false]
    repeat' split
    all_goals simp

/-- The first word of a program just loaded is what the next step runs. -/
theorem fetch_load (s : State) (w : InstrWord) (ws : List InstrWord) : (s.load (w :: ws)).fetch = .word w := by
  have := s.pc.isLt
  refine fetch_eq_word rfl ?_
  simp only [State.nextAddress, State.load, BitVec.toNat_ofNat]
  omega

/-- Loading leaves a pc that is a multiple of 4 where it is. -/
theorem load_pc {s : State} (h : s.pc.toNat % 4 = 0) (ws : List InstrWord) : (s.load ws).pc = s.pc := by
  apply BitVec.eq_of_toNat_eq
  have := s.pc.isLt
  simp only [State.load, BitVec.toNat_ofNat]
  omega

/-- A step that answers a next state has run the instruction of the next word. -/
theorem step_next {s s' : State} (h : step s = .next s') :
    ∃ w i, s.fetch = .word w ∧ decode w = .instr i ∧ exec i s = .next s' := by
  unfold step at h
  cases hf : s.fetch with
  | word w =>
    rw [hf] at h
    simp only [runWord] at h
    cases hd : decode w with
    | instr i => rw [hd] at h; exact ⟨w, i, rfl, hd, h⟩
    | rejected r => rw [hd] at h; cases h
  | ended => rw [hf] at h; cases h
  | outside => rw [hf] at h; cases h
  | misaligned => rw [hf] at h; cases h

end Sys2Proof.Machine
end

