-- ==== Sys2Proof/Laws/Exec.lean ====
section
/-! SUPPORT. What `exec` answers, in terms of the resolution of the access: when it completes and in which state, when
it raises which exception, when it refuses; and which copy an access names. -/

namespace Sys2Proof.Machine

/-! ### Completion -/

section
variable {s r : State} {c : Copy} {v : Word} (t : RegNum)

theorem exec_mrs_phys (hr : resolve s.params s.ctl = .phys c) (hv : physRead s c = some v) :
    exec (.mrs t) s = .next (s.writeX t v).advance := by
  simp [exec, execMrs, access, hr, hv, completeRead, complete]

theorem exec_mrs_virtual (hr : resolve s.params s.ctl = .virtual) :
    exec (.mrs t) s = .next (s.writeX t s.ext.icvBpr1).advance := by
  simp [exec, execMrs, access, hr, complete]

theorem exec_msr_phys (hr : resolve s.params s.ctl = .phys c) (hw : physWrite s c (s.readX t) = some r) :
    exec (.msr t) s = .next r.advance := by
  simp [exec, execMsr, access, hr, hw, completeWrite, complete]

theorem exec_msr_virtual (hr : resolve s.params s.ctl = .virtual) :
    exec (.msr t) s = .next (s.writeIcvBpr1 (s.readX t)).advance := by
  simp [exec, execMsr, access, hr, complete]

end

/-- Every instruction that completes moves on by one word and leaves the program where it was (R24, R95). -/
theorem exec_next_moves_on {i : Instr} {s s' : State} (h : exec i s = .next s') :
    s'.program = s.program ∧ s'.base = s.base ∧ s'.completed = s.completed + 1 ∧ s'.pc = nextPc s.pc := by
  cases i with
  | mrs t => rcases execMrs_next h with ⟨-, rfl⟩ | ⟨c, v, -, -, rfl⟩ <;> exact ⟨rfl, rfl, rfl, rfl⟩
  | msr t =>
    rcases execMsr_next h with ⟨-, rfl⟩ | ⟨c, r, -, hw, rfl⟩
    · exact ⟨rfl, rfl, rfl, rfl⟩
    · rcases physWrite_cases hw with ⟨-, rfl⟩ | ⟨-, rfl⟩ | ⟨-, rfl⟩ <;> exact ⟨rfl, rfl, rfl, rfl⟩

/-! ### Stops -/

/-- An exception is raised exactly where the access resolves to one, the same for both instructions and every operand. -/
theorem exec_fault_iff (i : Instr) (s : State) (f : Fault) :
    exec i s = .fault f ↔
      (resolve s.params s.ctl = .undefined ∧ f = .undefined) ∨
      (∃ el, resolve s.params s.ctl = .trap el ∧ f = .systemAccessTrap el ecSysTrap) := by
  cases i with
  | mrs t =>
    simp only [exec, execMrs, access]
    cases resolve s.params s.ctl <;> simp [raiseUndefined, raiseSystemAccessTrap, raise, complete]
    · exact eq_comm
    · exact eq_comm
    · unfold completeRead; split <;> simp [complete]
  | msr t =>
    simp only [exec, execMsr, access]
    cases resolve s.params s.ctl <;> simp [raiseUndefined, raiseSystemAccessTrap, raise, complete]
    · exact eq_comm
    · exact eq_comm
    · unfold completeWrite; split <;> simp [complete]

/-- The one refusal of an instruction is the access whose physical mode is `Refused`. -/
theorem exec_refused_iff (i : Instr) (s : State) (r : Refusal) :
    exec i s = .refused r ↔
      r = .secureAccessWithoutEl3 ∧
      ∃ c, resolve s.params s.ctl = .phys c ∧ physMode s.params s.ctl c = .refused := by
  cases i with
  | mrs t =>
    simp only [exec, execMrs, access]
    cases resolve s.params s.ctl <;> simp [raiseUndefined, raiseSystemAccessTrap, raise, complete]
    rename_i c
    unfold physRead
    cases physMode s.params s.ctl c <;> simp [completeRead, complete]
    exact eq_comm
  | msr t =>
    simp only [exec, execMsr, access]
    cases resolve s.params s.ctl <;> simp [raiseUndefined, raiseSystemAccessTrap, raise, complete]
    rename_i c
    unfold physWrite
    cases physMode s.params s.ctl c <;> simp [completeWrite, complete]
    exact eq_comm

/-! ### The copy an access names -/

/-- A physical access is not at EL0, and names the copy `SCR_EL3.NS` selects with EL3 and the unbanked copy without. -/
theorem resolve_phys_copy {p : Params} {ctl : Controls} {c : Copy} (h : resolve p ctl = .phys c) :
    ctl.el ≠ .el0 ∧ (p.haveEL3 = true ∨ ctl.el = .el3 → c = bankedCopy ctl) ∧
    (p.haveEL3 = false ∧ ctl.el ≠ .el3 → c = .u) := by
  revert h
  simp only [resolve, resolveEl1, resolveEl2, resolveEl3, bankedCopy]
  obtain ⟨h3, -, -, -⟩ := p
  obtain ⟨el, -, -, -, -, -, -, ns, -, -, -, -, -, -, -⟩ := ctl
  cases el <;> cases h3 <;> cases ns <;> simp <;> (repeat' split) <;> simp <;> exact fun h => h.symm

end Sys2Proof.Machine
end

