-- ==== Sys2Proof/Laws/PerInstr.lean ====
section
/-! SUPPORT. Facts about each instruction as syntax, one lemma per constructor. -/

namespace Sys2Proof.Laws.FieldsOfWord

/-- The word of an instruction carries exactly the instruction's fields at the positions of R41. -/
def Statement (i : Instr) : Prop := SysregMove.ofWord (encode i) = some i.fields

theorem mrs (t : RegNum) : Statement (.mrs t) := by
  unfold Statement
  revert t
  decide

theorem msr (t : RegNum) : Statement (.msr t) := by
  unfold Statement
  revert t
  decide

end Sys2Proof.Laws.FieldsOfWord

namespace Sys2Proof.Laws.WellFormed

/-- Every instruction is well formed: no value of `t` is reserved (R45). -/
def Statement (i : Instr) : Prop := i.wellFormed = true

theorem mrs (t : RegNum) : Statement (.mrs t) := rfl

theorem msr (t : RegNum) : Statement (.msr t) := rfl

end Sys2Proof.Laws.WellFormed
end

