-- ==== Sys2Proof/Tests/Slice0.lean ====
section
/-! SUPPORT. The model's own tests, with every expected result taken from the spec (95_test_vectors.md and the
encoding tables of 30_encoding.md), and one witness for each premise of each statement. -/

namespace Sys2Proof.Tests

open Sys2Proof.Machine Sys2Proof.Claims

/-! ### Well-formedness: one ill-formed field tuple for each check (the decoder negatives of 95 section 2) -/

def good : SysregMove := Instr.fields (.mrs 0)

theorem smoke_good_tuple : good.wellFormed = true := by decide
theorem smoke_op0_refused : ({ good with op0 := 0b10 } : SysregMove).wellFormed = false := by decide
theorem smoke_op1_refused : ({ good with op1 := 0b001 } : SysregMove).wellFormed = false := by decide
theorem smoke_crn_refused : ({ good with crn := 0b1011 } : SysregMove).wellFormed = false := by decide
theorem smoke_crm_refused : ({ good with crm := 0b1000 } : SysregMove).wellFormed = false := by decide
theorem smoke_op2_refused : ({ good with op2 := 0b010 } : SysregMove).wellFormed = false := by decide

/-! ### Decoding (95 section 2; the first two words are written out bit by bit from R41) -/

theorem test_decode_mrs_x5 : decode 0b11010101001110001100110001100101#32 = .instr (.mrs 5) := by decide
theorem test_decode_msr_x5 : decode 0b11010101000110001100110001100101#32 = .instr (.msr 5) := by decide

theorem test_decode_mrs_words :
    [0xD538CC60#32, 0xD538CC61#32, 0xD538CC62#32, 0xD538CC65#32, 0xD538CC7E#32, 0xD538CC7F#32].map decode =
    ([0, 1, 2, 5, 30, 31].map fun t => .instr (.mrs t)) := by decide

theorem test_decode_msr_words :
    [0xD518CC60#32, 0xD518CC61#32, 0xD518CC62#32, 0xD518CC65#32, 0xD518CC7E#32, 0xD518CC7F#32].map decode =
    ([0, 1, 2, 5, 30, 31].map fun t => .instr (.msr t)) := by decide

theorem test_decode_negatives :
    [0xD538CC40#32, 0xD538CC80#32, 0xD538C860#32, 0xD539CC60#32, 0xD530CC60#32, 0xD578CC60#32, 0#32,
      0xD503201F#32].map decode =
    ([0xD538CC40#32, 0xD538CC80#32, 0xD538C860#32, 0xD539CC60#32, 0xD530CC60#32, 0xD578CC60#32, 0#32,
      0xD503201F#32].map fun w => .rejected (.notInScope w)) := by decide

theorem test_encode_words : encode (.mrs 30) = 0xD538CC7E#32 ∧ encode (.msr 31) = 0xD518CC7F#32 := by decide

theorem test_decode_bytes :
    decodeBytes [0x7E, 0xCC, 0x38, 0xD5, 0xAA] = (.instr (.mrs 30), [0xAA]) ∧
    decodeBytes [0x60, 0xCC, 0x18] = (.rejected (.truncated [0x60, 0xCC, 0x18]), [0x60, 0xCC, 0x18]) := by decide

theorem test_table_words :
    decodeTableWord 32 0xD538CC60 = some (.mrs 0) ∧ decodeTableWord 32 0xD518CC60 = some (.msr 0) ∧
    decodeTableWord 32 0xD503201F = none := by decide

/-! ### Small states: the configurations and the default environment of 95_test_vectors.md -/

def configA : Params := { haveEL3 := true, bpr0Min := 2, bpr1MinNoEl3 := .bpr0Min, noEl3NonSecure := false }
def configB : Params := { haveEL3 := false, bpr0Min := 2, bpr1MinNoEl3 := .bpr0MinPlusOne, noEl3NonSecure := true }
def configB2 : Params := { haveEL3 := false, bpr0Min := 2, bpr1MinNoEl3 := .bpr0Min, noEl3NonSecure := false }

/-- The default environment at a level. -/
def env (el : EL) : Controls :=
  { el := el, iccSreEl1Sre := true, iccSreEl2Sre := true, iccSreEl3Sre := true, ichHcrEl2Tall1 := false,
    hcrEl2Imo := false, scrEl3Irq := false, scrEl3Ns := false, scrEl3Eel2 := false, iccCtlrEl3CbprEl1S := false,
    iccCtlrEl3CbprEl1Ns := false, iccCtlrEl1Cbpr := false, el2Enabled := false, el2UsingAArch32 := false,
    el3UsingAArch32 := false }

/-- A state with `BPR1[S] = 4`, `BPR1[NS] = 5`, `BPR1[U] = 6` (95 section 5), `BPR0 = b` and `ICV_BPR1_EL1` reading 5. -/
def st (p : Params) (c : Controls) (b : Word := 0) : State :=
  { params := p, program := [], base := 0x1000, completed := 0, x := Vector.replicate 31 0, pc := 0x1000, ctl := c,
    ext := { iccBpr0 := b, icvBpr1 := 5, ichVmcrVbpr1 := 0, handed := [] }, bpr1 := { s := 4, ns := 5, u := 6 } }

/-! ### Access resolution (95 section 3, V1 to V21) -/

theorem test_resolve_config_a :
    ([{ env .el0 with scrEl3Ns := false },
      { env .el0 with iccSreEl1Sre := false, hcrEl2Imo := true, scrEl3Irq := true, el2Enabled := true },
      { env .el1 with iccSreEl1Sre := false, ichHcrEl2Tall1 := true, hcrEl2Imo := true, scrEl3Irq := true, el2Enabled := true },
      { env .el1 with ichHcrEl2Tall1 := true, hcrEl2Imo := true, scrEl3Irq := true, el2Enabled := true },
      { env .el1 with ichHcrEl2Tall1 := true, hcrEl2Imo := true, scrEl3Ns := true },
      { env .el1 with hcrEl2Imo := true, scrEl3Irq := true, scrEl3Ns := true, el2Enabled := true },
      { env .el1 with ichHcrEl2Tall1 := true, hcrEl2Imo := true, scrEl3Ns := true, el2Enabled := true, el2UsingAArch32 := true },
      { env .el1 with scrEl3Irq := true, scrEl3Ns := true, el2Enabled := true },
      { env .el1 with scrEl3Irq := true, el3UsingAArch32 := true },
      env .el1,
      { env .el1 with scrEl3Ns := true },
      { env .el2 with iccSreEl2Sre := false, scrEl3Irq := true },
      { env .el2 with ichHcrEl2Tall1 := true, hcrEl2Imo := true, scrEl3Irq := true, scrEl3Ns := true, el2Enabled := true },
      { env .el2 with iccSreEl1Sre := false, ichHcrEl2Tall1 := true, hcrEl2Imo := true, scrEl3Ns := true, el2Enabled := true },
      { env .el2 with el2Enabled := true },
      { env .el3 with iccSreEl3Sre := false, scrEl3Ns := true },
      { env .el3 with iccSreEl1Sre := false, iccSreEl2Sre := false, ichHcrEl2Tall1 := true, hcrEl2Imo := true,
                      scrEl3Irq := true, el2Enabled := true },
      { env .el3 with scrEl3Ns := true, scrEl3Irq := true }] : List Controls).map (resolve configA) =
    [.undefined, .undefined, .trap .el1, .trap .el2, .phys .ns, .virtual, .phys .ns, .trap .el3, .phys .s, .phys .s,
     .phys .ns, .trap .el2, .trap .el3, .phys .ns, .phys .s, .trap .el3, .phys .s, .phys .ns] := by decide

theorem test_resolve_config_b :
    ([{ env .el1 with scrEl3Irq := true }, { env .el1 with hcrEl2Imo := true, el2Enabled := true },
      { env .el2 with scrEl3Irq := true, el2Enabled := true }] : List Controls).map (resolve configB) =
    [.phys .u, .virtual, .phys .u] := by decide

/-! ### The two instructions (95 section 5, I1 to I26, and section 4.1) -/

/-- What a test looks at after one instruction. -/
inductive Seen where
  | value (v : Word)
  | cells (s ns u : BinaryPoint) (handed : List Handover)
  | fault (f : Fault)
  | refused (r : Refusal)
  deriving DecidableEq

/-- The value `MRS X2` reads, or where it stops; the pc has moved from 0x1000 to 0x1004 when it completes. -/
def mrs2 (s : State) : Seen :=
  match exec (.mrs 2) s with
  | .next s' => if s'.pc = 0x1004 then .value (s'.readX 2) else .value 0xBAD
  | .fault f => .fault f
  | .refused r => .refused r

/-- The copies and the hand-overs after `MSR` of the value `v` from `X1`, or where it stops. -/
def msr1 (v : Word) (s : State) : Seen :=
  match exec (.msr 1) (s.writeX 1 v) with
  | .next s' => .cells s'.bpr1.s s'.bpr1.ns s'.bpr1.u s'.ext.handed
  | .fault f => .fault f
  | .refused r => .refused r

theorem test_mrs_vectors :
    [mrs2 (st configA (env .el3)), mrs2 (st configA { env .el3 with scrEl3Ns := true }),
     mrs2 (st configA { env .el3 with scrEl3Ns := true, iccCtlrEl3CbprEl1S := true, iccCtlrEl3CbprEl1Ns := true } 7),
     mrs2 (st configA { env .el2 with el2Enabled := true, iccCtlrEl3CbprEl1S := true } 7),
     mrs2 (st configA { env .el2 with scrEl3Ns := true, el2Enabled := true, iccCtlrEl3CbprEl1Ns := true } 2),
     mrs2 (st configA { env .el2 with scrEl3Ns := true, el2Enabled := true, hcrEl2Imo := true, iccCtlrEl3CbprEl1Ns := true } 7),
     mrs2 (st configA { env .el1 with scrEl3Ns := true, iccCtlrEl3CbprEl1Ns := true } 6),
     mrs2 (st configA { env .el1 with scrEl3Ns := true } 6),
     mrs2 (st configA { env .el1 with iccCtlrEl3CbprEl1S := true } 3),
     mrs2 (st configA { env .el1 with iccCtlrEl3CbprEl1S := true, el2Enabled := true, hcrEl2Imo := true } 3),
     mrs2 (st configA { env .el1 with scrEl3Ns := true, iccSreEl1Sre := false }),
     mrs2 (st configB (env .el1)), mrs2 (st configB { env .el2 with el2Enabled := true, iccCtlrEl1Cbpr := true }),
     mrs2 (st configB2 { env .el1 with iccCtlrEl1Cbpr := true })] =
    [.value 4, .value 5, .value 5, .value 4, .value 3, .value 7, .value 7, .value 5, .value 3, .value 5,
     .fault (.systemAccessTrap .el1 0x03), .value 6, .value 1, .refused .secureAccessWithoutEl3] := by decide

/-- The destination `XZR` discards the value and the pc still moves (R60, corner cases). -/
theorem test_mrs_xzr :
    (match exec (.mrs 31) (st configA (env .el3)) with
     | .next s' => s'.x == (st configA (env .el3)).x && s'.pc == 0x1004
     | _ => false) = true := by decide

theorem test_msr_vectors :
    [msr1 0 (st configA (env .el3)), msr1 0 (st configA { env .el3 with scrEl3Ns := true }),
     msr1 7 (st configA { env .el3 with iccCtlrEl3CbprEl1S := true, iccCtlrEl3CbprEl1Ns := true } 7),
     msr1 7 (st configA { env .el2 with scrEl3Ns := true, el2Enabled := true, iccCtlrEl3CbprEl1Ns := true } 2),
     msr1 6 (st configA { env .el1 with iccCtlrEl3CbprEl1S := true } 3),
     msr1 6 (st configA { env .el1 with iccCtlrEl3CbprEl1S := true, scrEl3Irq := true } 3),
     msr1 1 (st configA { env .el1 with scrEl3Ns := true, iccCtlrEl3CbprEl1Ns := true, el2Enabled := true, hcrEl2Imo := true,
                                        scrEl3Irq := true }),
     msr1 1 (st configA { env .el1 with scrEl3Ns := true, el2Enabled := true, ichHcrEl2Tall1 := true, hcrEl2Imo := true }),
     msr1 7 (st configA (env .el0)),
     msr1 1 (st configB (env .el1)), msr1 7 (st configB { env .el1 with iccCtlrEl1Cbpr := true }),
     msr1 1 (st configB2 (env .el1))] =
    [.cells 2 5 6 [], .cells 4 3 6 [], .cells 7 5 6 [], .cells 4 5 6 [], .cells 4 5 6 [.iccBpr0 6],
     .fault (.systemAccessTrap .el3 0x03), .cells 4 5 6 [.icvBpr1 1], .fault (.systemAccessTrap .el2 0x03),
     .fault .undefined, .cells 4 5 3 [], .cells 4 5 6 [], .cells 4 5 2 []] := by decide

theorem test_msr_clamp :
    ([0, 1, 2, 3, 4, 7, 0xA, 0x100, 0xFFFFFFFFFFFFFFF8, 0xFFFFFFFFFFFFFFFF].map fun v =>
      msr1 v (st configA (env .el3))) =
    ([2, 2, 2, 3, 4, 7, 2, 2, 2, 7].map fun b => .cells b 5 6 []) ∧
    ([0, 1, 2, 3, 4, 7, 0xA, 0x100, 0xFFFFFFFFFFFFFFF8, 0xFFFFFFFFFFFFFFFF].map fun v =>
      msr1 v (st configA { env .el3 with scrEl3Ns := true })) =
    ([3, 3, 3, 3, 4, 7, 3, 3, 3, 7].map fun b => .cells 4 b 6 []) := by decide

/-- The mirror read for every value of `BPR0` (95 section 4.3). -/
theorem test_mirror_values :
    ([0, 1, 2, 3, 4, 5, 6, 7] : List Word).map mirrorValue = [1, 2, 3, 4, 5, 6, 7, 7] := by decide

/-- The general-knowledge split of R19 at its ends: nothing of an 8-bit priority is left for the group at `b = 7`. -/
theorem test_family_split :
    familySubpriorityBits .s 7 = some 8 ∧ familySubpriorityBits .s 0 = some 1 ∧
    familySubpriorityBits .ns 1 = some 1 ∧ familySubpriorityBits .u 0 = none := by decide

/-! ### From reset -/

/-- Each instruction of the table, loaded after reset, is the one the first step runs, and it completes. -/
theorem test_reset_runs_table_words :
    ([0xD538CC61, 0xD518CC61].map fun w =>
      match step (State.reset.withFetchWord 32 w) with
      | .next s' => s'.pc == 4
      | _ => false) = [true, true] := by decide

/-- With no program loaded there is nothing to run. -/
theorem test_reset_is_program_end : State.reset.fetch = .ended := by decide

/-! ### Witnesses: for each statement with premises, a state and operands that meet them -/

/-- A program of two words at 0x1000, `MRS X2` and `MSR X1`, at its first word. -/
def prog (c : Controls) : State := { st configA c with program := [0xD538CC62#32, 0xD518CC61#32] }

theorem witness_DecodeInvertsEncode : (Instr.mrs 31).wellFormed = true ∧ (Instr.msr 0).wellFormed = true := by decide

theorem witness_DecodeMatchesPatterns :
    decodeBytes [0x60, 0xCC, 0x38, 0xD5] = (.instr (.mrs 0), []) ∧
    decodeBytes [0x7F, 0xCC, 0x18, 0xD5, 0] = (.instr (.msr 31), [0]) := by decide

theorem witness_EncodeInvertsDecode :
    decode 0xD538CC60#32 = .instr (.mrs 0) ∧ decode 0xD518CC7F#32 = .instr (.msr 31) := by decide

theorem witness_OtherWordsAreRefused :
    0xD503201F#32 &&& 0xFFFFFFE0#32 ≠ 0xD538CC60#32 ∧ 0xD503201F#32 &&& 0xFFFFFFE0#32 ≠ 0xD518CC60#32 ∧
    WordAtPc { st configA (env .el0) with program := [0xD503201F#32] } 0xD503201F#32 := by decide

theorem witness_FlippedBits_fixed : 5 ≤ (5 : Fin 32).val ∧ (5 : Fin 32).val ≠ 21 ∧ (31 : Fin 32).val ≠ 21 := by decide
theorem witness_FlippedBits_operand : (0 : Fin 32).val < 5 ∧ (4 : Fin 32).val < 5 := by decide

theorem witness_StepRunsDecodedInstruction_first :
    WordAtPc (prog (env .el3)) 0xD538CC62#32 ∧ decode 0xD538CC62#32 = .instr (.mrs 2) := by decide
theorem witness_StepRunsDecodedInstruction_last :
    WordAtPc { prog (env .el3) with pc := 0x1004, completed := 1 } 0xD518CC61#32 ∧ decode 0xD518CC61#32 = .instr (.msr 1) := by decide

theorem witness_LoadedWordRunsNext :
    decodeTableWord 32 0xD518CC7F = some (.msr 31) ∧ (st configA (env .el3)).pc.toNat % 4 = 0 := by decide

/-- A program whose first word is the last of the address space, at its first word. -/
def progTop (ws : List InstrWord) : State :=
  { st configA (env .el3) with program := ws, base := 0xFFFFFFFFFFFFFFFC, pc := 0xFFFFFFFFFFFFFFFC }

theorem witness_StepRunsDecodedInstruction_top :
    WordAtPc (progTop [0xD538CC62#32]) 0xD538CC62#32 ∧
    WordAtPc { progTop [0xD538CC62#32, 0xD518CC61#32] with pc := 3, completed := 1 } 0xD518CC61#32 := by decide

theorem witness_StepStopsWithoutWord_ended :
    (prog (env .el3)).program.length ≤ ({ prog (env .el3) with completed := 2 } : State).completed := by decide
theorem witness_StepStopsWithoutWord_misaligned :
    (prog (env .el3)).completed < (prog (env .el3)).program.length ∧ (prog (env .el3)).nextAddress < 2 ^ 64 ∧
    ({ prog (env .el3) with pc := 0x1002 } : State).pc.toNat % 4 ≠ 0 := by decide
theorem witness_StepStopsWithoutWord_outside :
    ({ prog (env .el3) with pc := 0x1004 } : State).pc.toNat % 4 = 0 ∧
    ({ prog (env .el3) with pc := 0x1004 } : State).pc.toNat ≠ (prog (env .el3)).nextAddress := by decide

theorem witness_RunStopsAtException_step : step (prog (env .el0)) = .fault .undefined := rfl
theorem witness_RunStopsAtException_run :
    run 1 (prog { env .el1 with iccSreEl1Sre := false }) =
      .faulted (.systemAccessTrap .el1 0x03) (prog { env .el1 with iccSreEl1Sre := false }) := rfl

theorem witness_EveryProgramRunEnds :
    (prog (env .el3)).completed = 0 ∧ (prog (env .el3)).pc = (prog (env .el3)).base ∧
    (prog (env .el3)).base.toNat % 4 = 0 ∧
    (prog (env .el3)).base.toNat + 4 * (prog (env .el3)).program.length < 2 ^ 64 := by decide
theorem witness_EveryProgramRunEnds_ended : ∃ s', run 2 (prog (env .el3)) = .ended s' := ⟨_, rfl⟩

/-- R95 at the top of the address space: the run ends normally after the last word, whatever the pc then is. -/
theorem test_run_ends_at_top_of_address_space :
    (∃ s', run 1 (progTop [0xD538CC62#32]) = .ended s') ∧
    (∃ s', run 2 (progTop [0xD538CC62#32, 0xD518CC61#32]) = .ended s') := ⟨⟨_, rfl⟩, ⟨_, rfl⟩⟩
theorem witness_RunIsWordsInOrder_top :
    (progTop [0xD538CC62#32]).completed = 0 ∧ (progTop [0xD538CC62#32]).pc = (progTop [0xD538CC62#32]).base ∧
    (progTop [0xD538CC62#32]).base.toNat % 4 = 0 := by decide
theorem witness_PcAtNextWordIsKept :
    (prog (env .el3)).PcAtNextWord ∧ ({ prog (env .el3) with pc := 0x1004, completed := 1 } : State).PcAtNextWord ∧
    (progTop [0xD538CC62#32]).PcAtNextWord := by decide

/-- Each row of the list of causes (R72), with the vectors V1, V3, V4, V8, V14, V15 and V19 behind them. -/
theorem witness_ExceptionCausesAreThoseListed_rows :
    [mrs2 (st configA (env .el0)), mrs2 (st configA { env .el1 with iccSreEl1Sre := false }),
     mrs2 (st configA { env .el1 with ichHcrEl2Tall1 := true, hcrEl2Imo := true, scrEl3Irq := true, el2Enabled := true }),
     mrs2 (st configA { env .el1 with scrEl3Irq := true, scrEl3Ns := true, el2Enabled := true }),
     mrs2 (st configA { env .el2 with iccSreEl2Sre := false, scrEl3Irq := true }),
     mrs2 (st configA { env .el2 with ichHcrEl2Tall1 := true, hcrEl2Imo := true, scrEl3Irq := true, el2Enabled := true }),
     mrs2 (st configA { env .el3 with iccSreEl3Sre := false, scrEl3Ns := true })] =
    [.fault .undefined, .fault (.systemAccessTrap .el1 0x03), .fault (.systemAccessTrap .el2 0x03),
     .fault (.systemAccessTrap .el3 0x03), .fault (.systemAccessTrap .el2 0x03), .fault (.systemAccessTrap .el3 0x03),
     .fault (.systemAccessTrap .el3 0x03)] := by decide

theorem witness_FirstExceptionCauseWins_el1_sre :
    { env .el1 with iccSreEl1Sre := false }.el = .el1 ∧ { env .el1 with iccSreEl1Sre := false }.iccSreEl1Sre = false := by decide
def tall1Env : Controls := { env .el1 with ichHcrEl2Tall1 := true, hcrEl2Imo := true, scrEl3Irq := true, el2Enabled := true }
theorem witness_FirstExceptionCauseWins_el1_tall1 :
    tall1Env.el = .el1 ∧ tall1Env.iccSreEl1Sre = true ∧ El2Controls (st configA tall1Env) ∧ tall1Env.ichHcrEl2Tall1 = true := by
  decide
def virtualEnv : Controls := { env .el1 with hcrEl2Imo := true, scrEl3Irq := true, el2Enabled := true, scrEl3Ns := true,
                                             iccCtlrEl3CbprEl1Ns := true }
/-- For FirstExceptionCauseWins and VirtualAccessGoesToIcv. -/
theorem witness_VirtualAtEl1 : VirtualAtEl1 (st configA virtualEnv) := by decide
def irqEnv (el : EL) : Controls := { env el with scrEl3Irq := true }
theorem witness_FirstExceptionCauseWins_el1_irq :
    (irqEnv .el1).el = .el1 ∧ (irqEnv .el1).iccSreEl1Sre = true ∧
    ¬(El2Controls (st configA (irqEnv .el1)) ∧ (irqEnv .el1).ichHcrEl2Tall1 = true) ∧
    ¬(El2Controls (st configA (irqEnv .el1)) ∧ (irqEnv .el1).hcrEl2Imo = true) ∧
    El3TakesAccesses (st configA (irqEnv .el1)) := by decide
theorem witness_FirstExceptionCauseWins_el2_sre :
    { irqEnv .el2 with iccSreEl2Sre := false }.el = .el2 ∧ { irqEnv .el2 with iccSreEl2Sre := false }.iccSreEl2Sre = false := by
  decide
theorem witness_FirstExceptionCauseWins_el2_irq :
    (irqEnv .el2).el = .el2 ∧ (irqEnv .el2).iccSreEl2Sre = true ∧ El3TakesAccesses (st configA (irqEnv .el2)) := by decide
theorem witness_FirstExceptionCauseWins_el3 :
    { env .el3 with iccSreEl3Sre := false }.el = .el3 ∧
    ∃ f, exec (.mrs 0) (st configA { env .el3 with iccSreEl3Sre := false }) = .fault f := ⟨rfl, _, rfl⟩
theorem witness_FirstExceptionCauseWins_target :
    exec (.msr 0) (st configA (irqEnv .el1)) = .fault (.systemAccessTrap .el3 0x03) := rfl

theorem witness_StopsDependOnlyOnInputs :
    (((st configA (env .el0)).writeX 3 9).setBpr1 .s 1).params = (st configA (env .el0)).params ∧
    (((st configA (env .el0)).writeX 3 9).setBpr1 .s 1).ctl = (st configA (env .el0)).ctl := by decide

/-- For MrsAtEl3ReadsSelectedCopy and MsrAtEl3WritesSelectedCopy. -/
theorem witness_PhysicalAtEl3_secure :
    PhysicalAtEl3 (st configA (env .el3)) ∧ (env .el3).scrEl3Ns = false := by decide
theorem witness_PhysicalAtEl3_nonSecure :
    PhysicalAtEl3 (st configA { env .el3 with scrEl3Ns := true, iccCtlrEl3CbprEl1Ns := true }) ∧
    { env .el3 with scrEl3Ns := true, iccCtlrEl3CbprEl1Ns := true }.scrEl3Ns = true := by decide

/-- For MrsAtEl2WithEl3 and MsrAtEl2WithEl3: each case. -/
theorem witness_AtEl2WithEl3_secure :
    PhysicalAtEl2 (st configA (env .el2)) ∧ configA.haveEL3 = true ∧ (env .el2).scrEl3Ns = false := by decide
theorem witness_AtEl2WithEl3_nonSecure :
    PhysicalAtEl2 (st configA { env .el2 with scrEl3Ns := true }) ∧
    { env .el2 with scrEl3Ns := true }.iccCtlrEl3CbprEl1Ns = false := by decide
/-- Non-secure under the common binary point, at either level. -/
def nsCbpr (el : EL) : Controls := { env el with scrEl3Ns := true, iccCtlrEl3CbprEl1Ns := true }
theorem witness_AtEl2WithEl3_mirror :
    PhysicalAtEl2 (st configA (nsCbpr .el2) 7) ∧ (nsCbpr .el2).scrEl3Ns = true ∧ (nsCbpr .el2).iccCtlrEl3CbprEl1Ns = true := by
  decide

/-- For MrsAtEl1WithEl3 and MsrAtEl1WithEl3: each case. -/
theorem witness_AtEl1WithEl3_secure :
    PhysicalAtEl1 (st configA (env .el1)) ∧ (env .el1).scrEl3Ns = false ∧ (env .el1).iccCtlrEl3CbprEl1S = false := by decide
theorem witness_AtEl1WithEl3_alias :
    PhysicalAtEl1 (st configA { env .el1 with iccCtlrEl3CbprEl1S := true }) ∧
    { env .el1 with iccCtlrEl3CbprEl1S := true }.scrEl3Ns = false := by decide
theorem witness_AtEl1WithEl3_nonSecure :
    PhysicalAtEl1 (st configA { env .el1 with scrEl3Ns := true, hcrEl2Imo := true, ichHcrEl2Tall1 := true }) ∧
    { env .el1 with scrEl3Ns := true }.iccCtlrEl3CbprEl1Ns = false := by decide
theorem witness_AtEl1WithEl3_mirror :
    PhysicalAtEl1 (st configA (nsCbpr .el1)) ∧ (nsCbpr .el1).scrEl3Ns = true ∧ (nsCbpr .el1).iccCtlrEl3CbprEl1Ns = true := by
  decide

/-- For MrsWithoutEl3 and MsrWithoutEl3: each case. -/
theorem witness_WithoutEl3_direct :
    PhysicalAtEl1 (st configB (irqEnv .el1)) ∧ PhysicalAtEl2 (st configB (irqEnv .el2)) ∧ configB.haveEL3 = false ∧
    (irqEnv .el1).iccCtlrEl1Cbpr = false := by decide
/-- The common binary point without EL3. -/
def cbprEnv (el : EL) : Controls := { env el with iccCtlrEl1Cbpr := true }
theorem witness_WithoutEl3_mirror :
    PhysicalAtEl1 (st configB (cbprEnv .el1)) ∧ PhysicalAtEl2 (st configB (cbprEnv .el2)) ∧ configB.noEl3NonSecure = true := by
  decide
theorem witness_WithoutEl3_refused :
    PhysicalAtEl1 (st configB2 (cbprEnv .el1)) ∧ PhysicalAtEl2 (st configB2 (cbprEnv .el2)) ∧
    configB2.haveEL3 = false ∧ configB2.noEl3NonSecure = false ∧ (cbprEnv .el1).iccCtlrEl1Cbpr = true := by decide

/-- The premises common to every cell of the table of R57. -/
abbrev TableCell (c : Controls) : Prop :=
  configA.haveEL3 = true ∧ c.iccCtlrEl3CbprEl1Ns = true ∧ c.scrEl3Ns = true ∧ TableComparable (st configA c)
theorem witness_NonSecureTable_imo0_irq0 :
    TableCell (nsCbpr .el1) ∧ TableCell (nsCbpr .el2) ∧ (nsCbpr .el1).hcrEl2Imo = false ∧ (nsCbpr .el1).scrEl3Irq = false := by
  decide
theorem witness_NonSecureTable_imo0_irq1 :
    TableCell { nsCbpr .el1 with scrEl3Irq := true } ∧ TableCell { nsCbpr .el2 with scrEl3Irq := true } := by decide
theorem witness_NonSecureTable_imo1_irq0 :
    TableCell { nsCbpr .el1 with hcrEl2Imo := true, el2Enabled := true } ∧
    TableCell { nsCbpr .el2 with hcrEl2Imo := true, el2Enabled := true } := by decide
theorem witness_NonSecureTable_imo1_irq1 :
    TableCell virtualEnv ∧ TableCell { nsCbpr .el2 with hcrEl2Imo := true, el2Enabled := true, scrEl3Irq := true } := by decide
theorem witness_NonSecureTable_composed :
    resolve configA { nsCbpr .el1 with hcrEl2Imo := true } = .phys .ns ∧ resolve configA (nsCbpr .el2) = .phys .ns ∧
    PhysicalAtEl3 (st configA (nsCbpr .el3)) := by decide

theorem witness_TableWithoutEl3_nonSecure :
    TableComparable (st configB (cbprEnv .el1)) ∧ TableComparable (st configB (cbprEnv .el2)) ∧
    configB.haveEL3 = false ∧ (cbprEnv .el1).iccCtlrEl1Cbpr = true ∧ resolve configB (cbprEnv .el1) = .phys .u := by decide
theorem witness_TableWithoutEl3_imo :
    TableComparable (st configB { cbprEnv .el1 with hcrEl2Imo := true, el2Enabled := true }) ∧
    TableComparable (st configB { cbprEnv .el2 with hcrEl2Imo := true, el2Enabled := true }) := by decide
theorem witness_TableWithoutEl3_secure :
    configB2.noEl3NonSecure = false ∧ resolve configB2 (cbprEnv .el1) = .phys .u ∧ resolve configB2 (cbprEnv .el2) = .phys .u := by
  decide

theorem witness_PhysicalModeFollowsFieldProse :
    (st configA (nsCbpr .el1)).El3OnlyIfImplemented ∧ resolve configA (nsCbpr .el1) = .phys .ns ∧
    (st configA (env .el3)).El3OnlyIfImplemented ∧ resolve configA (env .el3) = .phys .s := by decide

/-- For DirectWriteIsClamped: each copy. -/
theorem witness_ReachesCell :
    ReachesCell (st configA (env .el3)) .s ∧ ReachesCell (st configA { env .el1 with scrEl3Ns := true }) .ns ∧
    ReachesCell (st configB (env .el2)) .u := by decide

theorem witness_ReservedBits_read :
    ReachesCell (st configA (env .el3)) .s ∧ ∃ s', exec (.mrs 0) (st configA (env .el3)) = .next s' := ⟨by decide, _, rfl⟩
theorem witness_ReservedBits_write : (0xFFFFFFFFFFFFFFF8 : Word).toNat % 8 = (0 : Word).toNat % 8 := by decide

theorem witness_ReadsAreIdempotent : ∃ s₁, exec (.mrs 30) (st configA virtualEnv) = .next s₁ := ⟨_, rfl⟩
theorem witness_ReadAfterWrite :
    ReachesCell (st configB (env .el1)) .u ∧ ∃ s₁, exec (.msr 31) (st configB (env .el1)) = .next s₁ := ⟨by decide, _, rfl⟩
theorem witness_WritingBackIsIdempotent :
    (30 : RegNum) ≠ 31 ∧ ReachesCell (st configA (env .el3)) .s ∧ (st configA (env .el3)).LegalCopy .s ∧
    ∃ s₁, exec (.mrs 30) (st configA (env .el3)) = .next s₁ := ⟨by decide, by decide, by decide, _, rfl⟩

theorem witness_MrsChangesOnlyItsRegister : ∃ s', exec (.mrs 31) (st configA (env .el2)) = .next s' := ⟨_, rfl⟩
/-- One completed `MSR` for each thing its access can reach: a copy, nothing, `ICC_BPR0_EL1`, the virtual register. -/
theorem witness_MsrChangesAtMostOneTarget :
    (∃ s', exec (.msr 0) (st configA (env .el3)) = .next s') ∧
    (∃ s', exec (.msr 31) (st configA (nsCbpr .el2)) = .next s') ∧
    (∃ s', exec (.msr 0) (st configA { env .el1 with iccCtlrEl3CbprEl1S := true }) = .next s') ∧
    (∃ s', exec (.msr 0) (st configA virtualEnv) = .next s') := ⟨⟨_, rfl⟩, ⟨_, rfl⟩, ⟨_, rfl⟩, ⟨_, rfl⟩⟩
theorem witness_MsrChangesAtMostOneTarget_modes :
    ReachesCell (st configA (env .el3)) .s ∧ physMode configA (nsCbpr .el2) .ns = .mirrorBpr0 ∧
    physMode configA { env .el1 with iccCtlrEl3CbprEl1S := true } .s = .aliasBpr0 ∧
    resolve configA virtualEnv = .virtual := by decide

theorem witness_WrittenCopyStaysLegal :
    ReachesCell (st configA (env .el3)) .s ∧
    ∃ s₁, exec (.msr 1) (st configA (env .el3)) = .next s₁ ∧ Reaches s₁ (s₁.supply (env .el1) s₁.ext) :=
  ⟨by decide, _, rfl, .outside (.refl _) rfl rfl⟩
theorem witness_WrittenCopyStaysLegal_reset :
    copyExists configA .s = true ∧ 0 < Minimum configA .s ∧ copyExists configB .u = true ∧ 0 < Minimum configB .u := by decide

theorem witness_StepsKeepCopiesLegal :
    (prog (env .el3)).LegalCopy .s ∧ ∃ s', step { prog (env .el3) with pc := 0x1004, completed := 1 } = .next s' := ⟨by decide, _, rfl⟩
theorem witness_El3OnlyIfImplementedIsKept :
    (prog (env .el3)).El3OnlyIfImplemented ∧ ∃ s', step (prog (env .el3)) = .next s' := ⟨by decide, _, rfl⟩
theorem witness_AbsentCopiesStayUntouched :
    (prog (env .el3)).El3OnlyIfImplemented ∧ copyExists configA .u = false ∧ copyExists configB .s = false := by decide
theorem witness_OtherSecurityStateIsIsolated :
    (prog (env .el1)).params.haveEL3 = true ∧ (prog (env .el1)).ctl.el = .el1 ∧
    Copy.ns = (if (prog (env .el1)).ctl.scrEl3Ns = true then Copy.s else Copy.ns) ∧
    (prog (nsCbpr .el2)).ctl.el = .el2 ∧ Copy.s = (if (prog (nsCbpr .el2)).ctl.scrEl3Ns = true then Copy.s else Copy.ns) := by
  decide
theorem witness_NonSecureWritesStayAboveMinimum :
    ∃ s', step { prog { env .el1 with scrEl3Ns := true } with pc := 0x1004, completed := 1 } = .next s' ∧ s'.bpr1 ≠ (prog (env .el1)).bpr1 :=
  ⟨_, rfl, by decide⟩

theorem witness_ResetDrawsEveryCopy :
    copyExists configA .ns = true ∧ copyExists configA .u = false ∧ configA.haveEL3 = true ∧ configB.haveEL3 = false := by decide
theorem witness_PrioritySplit_own :
    ∃ sp, (st configA (env .el3)).group1Split .s 0xA5 = some sp := ⟨_, rfl⟩
theorem witness_PrioritySplit_separate :
    separateBinaryPoint (env .el1) .s = true ∧ separateBinaryPoint (nsCbpr .el1) .u = true := by decide
theorem witness_PrioritySplit_common : separateBinaryPoint (nsCbpr .el1) .ns = false := by decide

end Sys2Proof.Tests
end

section
/-! PROOF. The exceptions an access raises (R70 to R73). The resolution of an access is said once for each Exception
level in the conditions of the statements; from these equations follow the list of causes, their order, and that no trap goes
to a lower level. -/

namespace Sys2Proof.Claims

open Sys2Proof.Machine

section
variable {s : State}

/-! ### The resolution at each Exception level -/

theorem el2Controls_iff : el2Controls s.ctl = true ↔ El2Controls s := by
  simp [el2Controls]

theorem el3TakesIrqAccesses_iff : el3TakesIrqAccesses s.params s.ctl = true ↔ El3TakesAccesses s := by
  simp [el3TakesIrqAccesses, and_assoc]

/-- The copy an access reaches that is neither trapped nor redirected (R13). -/
def physicalCopy (s : State) : Copy := if s.params.haveEL3 = true then bankedCopy s.ctl else .u

theorem resolve_of_el0 (h : s.ctl.el = .el0) : resolve s.params s.ctl = .undefined := by
  simp only [resolve, h]

/-- R51, in the order of the pseudocode. -/
theorem resolve_of_el1 (h : s.ctl.el = .el1) :
    resolve s.params s.ctl =
      if s.ctl.iccSreEl1Sre = false then .trap .el1
      else if El2Controls s ∧ s.ctl.ichHcrEl2Tall1 = true then .trap .el2
      else if El2Controls s ∧ s.ctl.hcrEl2Imo = true then .virtual
      else if El3TakesAccesses s then .trap .el3
      else .phys (physicalCopy s) := by
  simp only [resolve, h, resolveEl1, Bool.not_eq_true', Bool.and_eq_true, el2Controls_iff, el3TakesIrqAccesses_iff,
    physicalCopy, apply_ite Resolution.phys]

/-- R52, in the order of the pseudocode. -/
theorem resolve_of_el2 (h : s.ctl.el = .el2) :
    resolve s.params s.ctl =
      if s.ctl.iccSreEl2Sre = false then .trap .el2
      else if El3TakesAccesses s then .trap .el3
      else .phys (physicalCopy s) := by
  simp only [resolve, h, resolveEl2, Bool.not_eq_true', el3TakesIrqAccesses_iff, physicalCopy,
    apply_ite Resolution.phys]

/-- R53. -/
theorem resolve_of_el3 (h : s.ctl.el = .el3) :
    resolve s.params s.ctl = if s.ctl.iccSreEl3Sre = false then .trap .el3 else .phys (bankedCopy s.ctl) := by
  simp only [resolve, h, resolveEl3, Bool.not_eq_true']

/-- The virtual redirection of R51 raises nothing and comes before the `SCR_EL3.IRQ` trap. -/
theorem resolve_of_virtualAtEl1 (h : VirtualAtEl1 s) : resolve s.params s.ctl = .virtual := by
  obtain ⟨hel, hsre, hel2, htall1, himo⟩ := h
  rw [resolve_of_el1 hel, if_neg (by simp [hsre]), if_neg (by simp [htall1]), if_pos ⟨hel2, himo⟩]

/-! ### When an access resolves to an exception -/

theorem resolve_eq_undefined_iff : resolve s.params s.ctl = .undefined ↔ s.ctl.el = .el0 := by
  cases hel : s.ctl.el with
  | el0 => simp [resolve_of_el0 hel]
  | el1 => rw [resolve_of_el1 hel]; split_ifs <;> simp
  | el2 => rw [resolve_of_el2 hel]; split_ifs <;> simp
  | el3 => rw [resolve_of_el3 hel]; split_ifs <;> simp

/-- No trap goes to EL0 or to a level below the current one (R51 to R53). -/
theorem rank_le_of_resolve_trap {target : EL} (h : resolve s.params s.ctl = .trap target) :
    1 ≤ target.rank ∧ s.ctl.el.rank ≤ target.rank := by
  cases hel : s.ctl.el with
  | el0 => rw [resolve_of_el0 hel] at h; cases h
  | el1 => rw [resolve_of_el1 hel] at h; split_ifs at h <;> cases h <;> decide
  | el2 => rw [resolve_of_el2 hel] at h; split_ifs at h <;> cases h <;> decide
  | el3 => rw [resolve_of_el3 hel] at h; split_ifs at h; cases h; decide

/-! ### When an instruction raises one -/

theorem exec_fault_iff_of_undefined (h : resolve s.params s.ctl = .undefined) (i : Instr) (f : Fault) :
    exec i s = .fault f ↔ f = .undefined := by
  simp [exec_fault_iff, h]

theorem exec_fault_iff_of_trap {target : EL} (h : resolve s.params s.ctl = .trap target) (i : Instr) (f : Fault) :
    exec i s = .fault f ↔ f = .systemAccessTrap target 0x03 := by
  simp [exec_fault_iff, h, ecSysTrap]

theorem exec_ne_fault_of_virtual (h : resolve s.params s.ctl = .virtual) (i : Instr) (f : Fault) :
    exec i s ≠ .fault f := by
  simp [exec_fault_iff, h]

theorem exec_ne_fault_of_phys {c : Copy} (h : resolve s.params s.ctl = .phys c) (i : Instr) (f : Fault) :
    exec i s ≠ .fault f := by
  simp [exec_fault_iff, h]

theorem traps_of_resolve {target : EL} (h : resolve s.params s.ctl = .trap target) : Traps s target :=
  fun i => (exec_fault_iff_of_trap h i _).2 rfl

/-- At EL3 the SRE trap is the one cause (R53, R73). -/
theorem sre_trap_of_fault_at_el3 (hel : s.ctl.el = .el3) {i : Instr} {f : Fault} (h : exec i s = .fault f) :
    s.ctl.iccSreEl3Sre = false ∧ Traps s .el3 := by
  have hres := resolve_of_el3 hel
  split_ifs at hres with hsre
  · exact ⟨hsre, traps_of_resolve hres⟩
  · exact absurd h (exec_ne_fault_of_phys hres i f)

theorem resolve_trap_of_exec {i : Instr} {target : EL} {ec : BitVec 6}
    (h : exec i s = .fault (.systemAccessTrap target ec)) : resolve s.params s.ctl = .trap target := by
  rcases (exec_fault_iff i s _).1 h with ⟨-, hf⟩ | ⟨_, hres, hf⟩ <;> cases hf
  exact hres

end

/-- Settles O12: `exec` raises Undefined where the access resolves to it, which is at EL0 alone (R50, R70). -/
theorem undefinedExactlyAtEl0 : Obligations.UndefinedExactlyAtEl0 := by
  intro i s
  simp [exec_fault_iff, resolve_eq_undefined_iff]

/-- Settles O13: at each level, one row of the list for each branch of the resolution that raises an exception, and none
for a branch that goes on to a register. -/
theorem exceptionCausesAreThoseListed : Obligations.ExceptionCausesAreThoseListed := by
  intro i s f
  cases hel : s.ctl.el with
  | el0 => exact (exec_fault_iff_of_undefined (resolve_of_el0 hel) i f).trans (by simp)
  | el1 =>
    have hres := resolve_of_el1 hel
    split_ifs at hres with hsre htall1 himo hirq
    · exact (exec_fault_iff_of_trap hres i f).trans (by grind)
    · exact (exec_fault_iff_of_trap hres i f).trans (by grind)
    · exact iff_of_false (exec_ne_fault_of_virtual hres i f) (by grind)
    · exact (exec_fault_iff_of_trap hres i f).trans (by grind)
    · exact iff_of_false (exec_ne_fault_of_phys hres i f) (by grind)
  | el2 =>
    have hres := resolve_of_el2 hel
    split_ifs at hres with hsre hirq
    · exact (exec_fault_iff_of_trap hres i f).trans (by grind)
    · exact (exec_fault_iff_of_trap hres i f).trans (by grind)
    · exact iff_of_false (exec_ne_fault_of_phys hres i f) (by grind)
  | el3 =>
    have hres := resolve_of_el3 hel
    split_ifs at hres with hsre
    · exact (exec_fault_iff_of_trap hres i f).trans (by grind)
    · exact iff_of_false (exec_ne_fault_of_phys hres i f) (by grind)

/-- Settles O14: each cause is the first test that succeeds in the resolution at its level, and a trap goes to the
level of its row. -/
theorem firstExceptionCauseWins : Obligations.FirstExceptionCauseWins := by
  intro s
  refine ⟨fun hel => ⟨fun hsre => ?_, fun hsre hel2 htall1 => ?_, ?_, fun hsre htall1 himo hirq => ?_⟩,
    fun hel => ⟨fun hsre => ?_, fun hsre hirq => ?_⟩, ?_, ?_⟩
  · exact traps_of_resolve (by rw [resolve_of_el1 hel, if_pos hsre])
  · exact traps_of_resolve (by rw [resolve_of_el1 hel, if_neg (by simp [hsre]), if_pos ⟨hel2, htall1⟩])
  · exact fun hvirt => exec_ne_fault_of_virtual (resolve_of_virtualAtEl1 hvirt)
  · exact traps_of_resolve (by
      rw [resolve_of_el1 hel, if_neg (by simp [hsre]), if_neg htall1, if_neg himo, if_pos hirq])
  · exact traps_of_resolve (by rw [resolve_of_el2 hel, if_pos hsre])
  · exact traps_of_resolve (by rw [resolve_of_el2 hel, if_neg (by simp [hsre]), if_pos hirq])
  · exact fun hel ⟨_, _, hfault⟩ => sre_trap_of_fault_at_el3 hel hfault
  · exact fun _ _ _ htrap => rank_le_of_resolve_trap (resolve_trap_of_exec htrap)

end Sys2Proof.Claims
end

section
/-! PROOF. The encoding (R40 to R45). The decoder and the encoder are inverse to each other; from that, a word decodes
to an instruction exactly when it is that instruction's pattern with the register number in its low 5 bits. -/

namespace Sys2Proof.Claims

open Sys2Proof.Machine

/-! ### The field tuples of the instructions -/

theorem ofWord_encode : ∀ i : Instr, SysregMove.ofWord (encode i) = some i.fields
  | .mrs t => Laws.FieldsOfWord.mrs t
  | .msr t => Laws.FieldsOfWord.msr t

theorem wellFormed_instr : ∀ i : Instr, i.fields.wellFormed = true
  | .mrs t => Laws.WellFormed.mrs t
  | .msr t => Laws.WellFormed.msr t

theorem toInstr_fields (i : Instr) : i.fields.toInstr = i := by cases i <;> rfl

/-- A well-formed tuple holds nothing but which instruction it is and its register number (R40). -/
theorem fields_toInstr {f : SysregMove} (h : f.wellFormed = true) : f.toInstr.fields = f := by
  obtain ⟨l, op0, op1, crn, crm, op2, rt⟩ := f
  simp only [SysregMove.wellFormed, SysregMove.op0Ok, SysregMove.op1Ok, SysregMove.crnOk, SysregMove.crmOk,
    SysregMove.op2Ok, Bool.and_eq_true, beq_iff_eq] at h
  obtain ⟨⟨⟨⟨rfl, rfl⟩, rfl⟩, rfl⟩, rfl⟩ := h
  cases l <;> rfl

theorem bit_eq_slice (w : InstrWord) (k : Nat) : BitVec.ofBool (w.getLsbD k) = w.extractLsb' k 1 := by
  ext j hj
  obtain rfl : j = 0 := by omega
  simp

/-- The fields of R41 are adjacent slices of the word, so putting them together gives the word again. -/
theorem toWord_ofWord {w : InstrWord} {f : SysregMove} (h : SysregMove.ofWord w = some f) : f.toWord = w := by
  unfold SysregMove.ofWord at h
  split at h
  · rename_i hfixed
    obtain ⟨htop, hbit20⟩ := hfixed
    cases h
    have hbit19 : (w.extractLsb' 19 2).extractLsb' 0 1 = w.extractLsb' 19 1 := by
      ext j hj
      simp
      omega
    rw [SysregMove.toWord, show 0b1101010100#10 = w.extractLsb' 22 10 from htop.symm,
      show 1#1 = w.extractLsb' 20 1 from hbit20.symm]
    simp only [bit_eq_slice, hbit19, BitVec.extractLsb'_append_extractLsb'_eq_extractLsb', BitVec.extractLsb'_eq_self]
  · cases h

/-! ### Decoding and encoding -/

theorem decode_encode (i : Instr) : decode (encode i) = .instr i := by
  simp only [decode, ofWord_encode, wellFormed_instr, if_true, toInstr_fields]

theorem encode_decode {w : InstrWord} {i : Instr} (h : decode w = .instr i) : encode i = w := by
  unfold decode at h
  cases hf : SysregMove.ofWord w with
  | none => simp [hf] at h
  | some f =>
    by_cases hwf : f.wellFormed = true
    · obtain rfl : f.toInstr = i := by simpa [hf, hwf] using h
      rw [encode, fields_toInstr hwf, toWord_ofWord hf]
    · simp [hf, hwf] at h

/-- A word that is no instruction is rejected as not in scope (R45). -/
theorem decode_eq_rejected {w : InstrWord} (h : ∀ i, decode w ≠ .instr i) : decode w = .rejected (.notInScope w) := by
  unfold decode at h ⊢
  split
  · split
    · simp_all
    · rfl
  · rfl

theorem word_of_bytes (w : InstrWord) :
    (w.extractLsb' 24 8 ++ w.extractLsb' 16 8 ++ w.extractLsb' 8 8 ++ w.extractLsb' 0 8 :
      BitVec (8 + 8 + 8 + 8)) = w := by
  simp only [BitVec.extractLsb'_append_extractLsb'_eq_extractLsb', BitVec.extractLsb'_eq_self]

theorem decodeBytes_bytesOfWord (w : InstrWord) (rest : List Byte) :
    decodeBytes (bytesOfWord w ++ rest) = (decode w, rest) := by
  simp only [bytesOfWord, List.cons_append, List.nil_append, decodeBytes, word_of_bytes]

/-! ### The two patterns of R42 -/

/-- The match value of an instruction under the mask `0xFFFFFFE0` (R42). -/
def pattern : Instr → InstrWord
  | .mrs _ => 0xD538CC60#32
  | .msr _ => 0xD518CC60#32

theorem encode_eq_or (i : Instr) : encode i = pattern i ||| i.fields.rt.setWidth 32 := by
  cases i with
  | mrs t => revert t; decide
  | msr t => revert t; decide

theorem encode_eq_xor (i : Instr) : encode i = pattern i ^^^ i.fields.rt.setWidth 32 := by
  cases i with
  | mrs t => revert t; decide
  | msr t => revert t; decide

theorem encode_and_mask (i : Instr) : encode i &&& 0xFFFFFFE0#32 = pattern i := by
  cases i with
  | mrs t => revert t; decide
  | msr t => revert t; decide

theorem encode_mod (i : Instr) : i.fields.rt.toNat = (encode i).toNat % 32 := by
  cases i with
  | mrs t => revert t; decide
  | msr t => revert t; decide

/-- The low 5 bits of a word, which the mask leaves out, are the register number. -/
theorem eq_or_of_and_mask {w p : InstrWord} {t : RegNum} (hp : w &&& 0xFFFFFFE0#32 = p) (ht : t.toNat = w.toNat % 32) :
    w = p ||| t.setWidth 32 := by
  have hlow : t.setWidth 32 = w &&& 31#32 := by
    apply BitVec.eq_of_toNat_eq
    have := t.isLt
    have hand : w.toNat &&& 31 = w.toNat % 32 := Nat.and_two_pow_sub_one_eq_mod w.toNat 5
    rw [BitVec.toNat_setWidth, BitVec.toNat_and, BitVec.toNat_ofNat, show 31 % 2 ^ 32 = 31 from rfl, hand]
    omega
  calc w = w &&& (0xFFFFFFE0#32 ||| 31#32) := (BitVec.and_allOnes).symm
    _ = p ||| t.setWidth 32 := by rw [BitVec.and_or_distrib_left, hp, hlow]

theorem decode_eq_instr_iff {w : InstrWord} {i : Instr} :
    decode w = .instr i ↔ w &&& 0xFFFFFFE0#32 = pattern i ∧ i.fields.rt.toNat = w.toNat % 32 := by
  constructor
  · intro h
    rw [← encode_decode h]
    exact ⟨encode_and_mask i, encode_mod i⟩
  · rintro ⟨hp, ht⟩
    rw [eq_or_of_and_mask hp ht, ← encode_eq_or, decode_encode]

/-- A word in neither pattern is no instruction (R45). -/
theorem decode_rejected_of_no_pattern {w : InstrWord} (hmrs : w &&& 0xFFFFFFE0#32 ≠ 0xD538CC60#32)
    (hmsr : w &&& 0xFFFFFFE0#32 ≠ 0xD518CC60#32) : decode w = .rejected (.notInScope w) := by
  refine decode_eq_rejected fun i hi => ?_
  have hp := (decode_eq_instr_iff.1 hi).1
  cases i with
  | mrs t => exact hmrs hp
  | msr t => exact hmsr hp

theorem length_of_decodeBytes {bytes rest : List Byte} {i : Instr} (h : decodeBytes bytes = (.instr i, rest)) :
    bytes.length = rest.length + 4 := by
  unfold decodeBytes at h
  split at h
  · obtain ⟨-, rfl⟩ := Prod.mk.inj h; rfl
  · cases h

/-! ### Flipped bits -/

theorem encode_mrs_xor_bit21 (t : RegNum) : encode (.mrs t) ^^^ BitVec.twoPow 32 21 = encode (.msr t) := by
  revert t; decide

theorem encode_msr_xor_bit21 (t : RegNum) : encode (.msr t) ^^^ BitVec.twoPow 32 21 = encode (.mrs t) := by
  rw [← encode_mrs_xor_bit21, BitVec.xor_assoc, BitVec.xor_self, BitVec.xor_zero]

theorem xor_and_distrib (x y m : InstrWord) : (x ^^^ y) &&& m = (x &&& m) ^^^ (y &&& m) := by
  ext j
  simp [Bool.and_xor_distrib_right]

/-- A flipped bit above the register number flips that bit of the masked word. -/
theorem encode_xor_and_mask (i : Instr) {k : Fin 32} (hk : 5 ≤ k.val) :
    (encode i ^^^ BitVec.twoPow 32 k.val) &&& 0xFFFFFFE0#32 = pattern i ^^^ BitVec.twoPow 32 k.val := by
  have hbit : ∀ k : Fin 32, 5 ≤ k.val → BitVec.twoPow 32 k.val &&& 0xFFFFFFE0#32 = BitVec.twoPow 32 k.val := by decide
  rw [xor_and_distrib, encode_and_mask, hbit k hk]

/-- The two patterns differ in bit 21 only. -/
theorem pattern_xor_ne (i j : Instr) : ∀ k : Fin 32, k.val ≠ 21 → pattern i ^^^ BitVec.twoPow 32 k.val ≠ pattern j := by
  cases i <;> cases j <;> (simp only [pattern]; decide)

theorem decode_encode_xor_high (i : Instr) {k : Fin 32} (hk : 5 ≤ k.val) (h21 : k.val ≠ 21) :
    decode (encode i ^^^ BitVec.twoPow 32 k.val) = .rejected (.notInScope (encode i ^^^ BitVec.twoPow 32 k.val)) :=
  decode_eq_rejected fun j hj =>
    pattern_xor_ne i j k h21 (encode_xor_and_mask i hk ▸ (decode_eq_instr_iff.1 hj).1)

/-- The register number is the low bits of an encoding, so a flip of one of them is a flip in the number. -/
theorem decode_encode_xor_low {i j : Instr} {k : Fin 32} (hk : k.val < 5) (hp : pattern j = pattern i)
    (ht : j.fields.rt = i.fields.rt ^^^ BitVec.twoPow 5 k.val) :
    decode (encode i ^^^ BitVec.twoPow 32 k.val) = .instr j := by
  have hbit : ∀ k : Fin 32, k.val < 5 → (BitVec.twoPow 5 k.val).setWidth 32 = BitVec.twoPow 32 k.val := by decide
  have hflip : encode i ^^^ BitVec.twoPow 32 k.val = encode j := by
    rw [encode_eq_xor i, encode_eq_xor j, hp, ht, BitVec.setWidth_xor, hbit k hk, BitVec.xor_assoc]
  rw [hflip, decode_encode]

/-! ### The statements -/

/-- Settles O2: the fields at their positions are the instruction's own, and its bytes are its word. -/
theorem decodeInvertsEncode : Obligations.DecodeInvertsEncode := by
  intro i _
  refine ⟨decode_encode i, fun rest => ?_⟩
  rw [decodeBytes_bytesOfWord, decode_encode]

/-- Settles O3: a word decodes to an instruction exactly when it has its pattern and its register number. -/
theorem decodeMatchesPatterns : Obligations.DecodeMatchesPatterns :=
  ⟨fun _ _ => ⟨decode_eq_instr_iff, decode_eq_instr_iff⟩, by decide, fun _ _ _ => length_of_decodeBytes⟩

/-- Settles O4: the fixed bits and the fields cover the word, and a well-formed tuple is that of its instruction. -/
theorem encodeInvertsDecode : Obligations.EncodeInvertsDecode := fun _ _ => encode_decode

/-- Settles O6: an encoding with bit 21 or a low bit flipped is an encoding, and with any other bit flipped it is in
neither pattern. -/
theorem flippedBitsOfAnEncoding : Obligations.FlippedBitsOfAnEncoding := by
  intro t
  refine ⟨?_, ?_, fun k hk h21 i _ => ⟨_, decode_encode_xor_high i hk h21⟩, fun k hk => ⟨?_, ?_⟩⟩
  · rw [encode_mrs_xor_bit21, decode_encode]
  · rw [encode_msr_xor_bit21, decode_encode]
  · exact decode_encode_xor_low hk rfl rfl
  · exact decode_encode_xor_low hk rfl rfl

/-- Settles O1: the six words are literals. -/
theorem specWordsDecodeAsWritten : Obligations.SpecWordsDecodeAsWritten := by
  unfold Obligations.SpecWordsDecodeAsWritten
  decide

end Sys2Proof.Claims
end

section
/-! PROOF. The step and the run (R32, R95). A step is the next word run at the pc; every step moves on by one word and
keeps the pc at it; a run keeps what every step keeps, and so is the execution of the words in order. -/

namespace Sys2Proof.Claims

open Sys2Proof.Machine

/-! ### What a step answers -/

section
variable {s s' : State}

theorem step_of_fetch_word {w : InstrWord} (h : s.fetch = .word w) : step s = runWord w s := by
  simp only [step, h]

theorem step_of_ended (h : s.fetch = .ended) : step s = .refused .programEnded := by
  simp only [step, h]

theorem step_of_wordAtPc {w : InstrWord} (h : WordAtPc s w) : step s = runWord w s :=
  step_of_fetch_word (fetch_eq_word h.1 h.2)

theorem runWord_of_decode {w : InstrWord} {i : Instr} (h : decode w = .instr i) : runWord w s = exec i s := by
  simp only [runWord, h]

theorem runWord_of_rejected {w : InstrWord} {r : DecodeReject} (h : decode w = .rejected r) :
    runWord w s = .refused (.notInScope w) := by
  simp only [runWord, h]

theorem exec_of_step (h : step s = .next s') : ∃ i, exec i s = .next s' := by
  obtain ⟨_, i, -, -, he⟩ := step_next h
  exact ⟨i, he⟩

/-- A step that completes is at a word of the program, and moves on by one word of the same program (R95). -/
theorem step_moves_on (h : step s = .next s') :
    s.completed < s.program.length ∧ s'.program = s.program ∧ s'.base = s.base ∧ s'.completed = s.completed + 1 ∧
    s'.pc = nextPc s.pc := by
  obtain ⟨w, i, hf, -, he⟩ := step_next h
  exact ⟨(List.getElem?_eq_some_iff.1 (next_of_fetch_word hf)).1, exec_next_moves_on he⟩

/-- The pc stays at the next word of the program, as long as that has an address. -/
theorem step_keeps_pc_at_next (hpc : s.nextAddress < 2 ^ 64 → s.pc.toNat = s.nextAddress) (h : step s = .next s') :
    s'.nextAddress < 2 ^ 64 → s'.pc.toNat = s'.nextAddress := by
  obtain ⟨-, -, hbase, hcount, hnext⟩ := step_moves_on h
  have haddr : s'.nextAddress = s.nextAddress + 4 := by
    simp only [State.nextAddress, hbase, hcount]
    omega
  intro hlt
  have hhere := hpc (by omega)
  rw [hnext, nextPc_toNat (by omega), hhere, haddr]

end

/-- At a pc that is no multiple of 4 no word is found (R38). -/
theorem fetch_eq_misaligned {s : State} (hlt : s.completed < s.program.length) (haddr : s.nextAddress < 2 ^ 64)
    (hpc : s.pc.toNat % 4 ≠ 0) : s.fetch = .misaligned := by
  simp only [State.fetch, List.getElem?_eq_getElem hlt]
  rw [if_pos haddr, if_pos hpc]

/-- At a multiple of 4 that is not the address of the next word no word is found. -/
theorem fetch_eq_outside {s : State} (hlt : s.completed < s.program.length) (haddr : s.nextAddress < 2 ^ 64)
    (hal : s.pc.toNat % 4 = 0) (hpc : s.pc.toNat ≠ s.nextAddress) : s.fetch = .outside := by
  simp only [State.fetch, List.getElem?_eq_getElem hlt]
  rw [if_pos haddr, if_neg (not_not.2 hal), if_neg hpc]

theorem decode_of_decodeTableWord {nbits w : Nat} {i : Instr} (h : decodeTableWord nbits w = some i) :
    decode (BitVec.ofNat 32 (w % 2 ^ nbits)) = .instr i := by
  unfold decodeTableWord at h
  split_ifs at h
  split at h
  · cases h
    assumption
  · cases h

/-! ### Runs -/

theorem run_of_ended {s : State} (h : s.fetch = .ended) (n : Nat) : run n s = .ended s := by
  cases n <;> simp [run, h]

theorem run_succ_of_next {s s' : State} (h : step s = .next s') (n : Nat) : run (n + 1) s = run n s' := by
  have hf : s.fetch ≠ .ended := fun hf => by simp [step_of_ended hf] at h
  simp [run, hf, h]

theorem run_succ_of_fault {s : State} {f : Fault} (h : step s = .fault f) (n : Nat) : run (n + 1) s = .faulted f s := by
  have hf : s.fetch ≠ .ended := fun hf => by simp [step_of_ended hf] at h
  simp [run, hf, h]

theorem run_succ_of_refused {s : State} {r : Refusal} (hf : s.fetch ≠ .ended) (h : step s = .refused r) (n : Nat) :
    run (n + 1) s = .refused r s := by
  simp [run, hf, h]

/-- The first step of a run: the normal end, or what the step answers. -/
theorem run_succ_cases (n : Nat) (s : State) :
    (s.fetch = .ended ∧ run (n + 1) s = .ended s) ∨
    (∃ s', step s = .next s' ∧ run (n + 1) s = run n s') ∨
    (∃ f, step s = .fault f ∧ run (n + 1) s = .faulted f s) ∨
    (∃ r, step s = .refused r ∧ run (n + 1) s = .refused r s) := by
  by_cases hf : s.fetch = .ended
  · exact .inl ⟨hf, run_of_ended hf _⟩
  · cases hs : step s with
    | next s' => exact .inr (.inl ⟨s', rfl, run_succ_of_next hs n⟩)
    | fault f => exact .inr (.inr (.inl ⟨f, rfl, run_succ_of_fault hs n⟩))
    | refused r => exact .inr (.inr (.inr ⟨r, rfl, run_succ_of_refused hf hs n⟩))

/-- What every step keeps holds where a run ends normally, which is after the last word. -/
theorem run_ended_of_kept {P : State → Prop} (kept : ∀ a b, P a → step a = .next b → P b) :
    ∀ (n : Nat) (s s' : State), P s → run n s = .ended s' → P s' ∧ s'.fetch = .ended := by
  intro n
  induction n with
  | zero =>
    intro s s' hp h
    by_cases hf : s.fetch = .ended <;> simp [run, hf] at h
    subst h
    exact ⟨hp, hf⟩
  | succ n ih =>
    intro s s' hp h
    rcases run_succ_cases n s with ⟨hf, hr⟩ | ⟨s₁, hs, hr⟩ | ⟨f, -, hr⟩ | ⟨r, -, hr⟩ <;> rw [hr] at h
    · cases h; exact ⟨hp, hf⟩
    · exact ih s₁ s' (kept s s₁ hp hs) h
    · cases h
    · cases h

/-- Every step completes a word, so a run does not outlast the words that are left. -/
theorem run_ne_outOfFuel :
    ∀ (n : Nat) (s s' : State), s.program.length ≤ s.completed + n → run n s ≠ .outOfFuel s' := by
  intro n
  induction n with
  | zero =>
    intro s s' hn
    simp [run, fetch_eq_ended_iff.2 hn]
  | succ n ih =>
    intro s s' hn
    rcases run_succ_cases n s with ⟨-, hr⟩ | ⟨s₁, hs, hr⟩ | ⟨f, -, hr⟩ | ⟨r, -, hr⟩ <;> rw [hr]
    · simp
    · obtain ⟨-, hprog, -, hcount, -⟩ := step_moves_on hs
      exact ih s₁ s' (by rw [hprog, hcount]; omega)
    · simp
    · simp

/-- A run that ends as faulted does so at a step that raises the exception, and more steps change nothing. -/
theorem run_faulted : ∀ (n m : Nat) (s s' : State) (f : Fault), run n s = .faulted f s' →
    step s' = .fault f ∧ run (n + m) s = .faulted f s' := by
  intro n
  induction n with
  | zero =>
    intro m s s' f h
    by_cases hf : s.fetch = .ended <;> simp [run, hf] at h
  | succ n ih =>
    intro m s s' f h
    rw [Nat.add_right_comm]
    rcases run_succ_cases n s with ⟨-, hr⟩ | ⟨s₁, hs, hr⟩ | ⟨g, hs, hr⟩ | ⟨r, -, hr⟩ <;> rw [hr] at h
    · cases h
    · rw [run_succ_of_next hs]
      exact ih m s₁ s' f h
    · cases h
      exact ⟨hs, run_succ_of_fault hs _⟩
    · cases h

/-- No further than the end of the program `ws`, which lies at the address `b`. -/
def Within (ws : List InstrWord) (b : Word) (s : State) : Prop :=
  s.program = ws ∧ s.base = b ∧ s.completed ≤ ws.length

theorem within_kept {ws : List InstrWord} {b : Word} (s s' : State) (hs : Within ws b s) (h : step s = .next s') :
    Within ws b s' := by
  obtain ⟨rfl, rfl, -⟩ := hs
  obtain ⟨hlt, hprog, hbase, hcount, -⟩ := step_moves_on h
  exact ⟨hprog, hbase, by omega⟩

/-- With the pc at the next word, a run of as many steps as words are left executes them in order. -/
theorem run_eq_runWords : ∀ (ws : List InstrWord) (s : State), s.program.drop s.completed = ws → s.PcAtNextWord →
    run ws.length s = runWords ws s := by
  intro ws
  induction ws with
  | nil =>
    intro s hws _
    exact run_of_ended (fetch_eq_ended_iff.2 (List.drop_eq_nil_iff.1 hws)) 0
  | cons w ws ih =>
    intro s hws ⟨hbase, hpc⟩
    have hword : s.program[s.completed]? = some w := by
      rw [← List.head?_drop, hws, List.head?_cons]
    have hfetch : s.fetch = .word w := by
      refine fetch_eq_word hword fun hlt => ⟨?_, hpc hlt⟩
      rw [hpc hlt, State.nextAddress]
      omega
    have hstep := step_of_fetch_word hfetch
    rw [List.length_cons, runWords]
    cases hw : runWord w s with
    | next s' =>
      rw [hw] at hstep
      obtain ⟨-, hprog, hbase', hcount, -⟩ := step_moves_on hstep
      rw [run_succ_of_next hstep]
      refine ih s' ?_ ⟨by rw [hbase', hbase], step_keeps_pc_at_next hpc hstep⟩
      rw [hprog, hcount, ← List.drop_drop, hws, List.drop_one, List.tail_cons]
    | fault f => exact run_succ_of_fault (hstep.trans hw) _
    | refused r => exact run_succ_of_refused (by simp [hfetch]) (hstep.trans hw) _

/-! ### The statements -/

/-- Settles O5: the two patterns with any register number are encodings, and a word in neither is rejected. -/
theorem otherWordsAreRefused : Obligations.OtherWordsAreRefused := by
  refine ⟨fun t => ⟨?_, ?_⟩, fun w hmrs hmsr => ?_⟩
  · exact encode_eq_or (.mrs t) ▸ decode_encode (.mrs t)
  · exact encode_eq_or (.msr t) ▸ decode_encode (.msr t)
  · have hd := decode_rejected_of_no_pattern hmrs hmsr
    exact ⟨hd, fun s hs => (step_of_wordAtPc hs).trans (runWord_of_rejected hd)⟩

/-- Settles O7: the fetch finds the word at the pc, and running it is running its instruction. -/
theorem stepRunsDecodedInstruction : Obligations.StepRunsDecodedInstruction :=
  fun _ _ _ hs hd => (step_of_wordAtPc hs).trans (runWord_of_decode hd)

/-- Settles O8: the first word of a program just loaded is the one the step fetches. -/
theorem loadedWordRunsNext : Obligations.LoadedWordRunsNext := by
  intro s nbits w i h
  refine ⟨?_, fun hpc => load_pc hpc _⟩
  exact (step_of_fetch_word (fetch_load s _ [])).trans (runWord_of_decode (decode_of_decodeTableWord h))

/-- Settles O9: the fetch tells the three stops apart. -/
theorem stepStopsWithoutWord : Obligations.StepStopsWithoutWord := by
  intro s
  refine ⟨fun h => step_of_ended (fetch_eq_ended_iff.2 h), fun hlt haddr => ⟨fun hpc => ?_, fun hal hpc => ?_⟩⟩
  · simp only [step, fetch_eq_misaligned hlt haddr hpc]
  · simp only [step, fetch_eq_outside hlt haddr hal hpc]

/-- Settles O10: by induction on the steps of the run. -/
theorem runStopsAtException : Obligations.RunStopsAtException :=
  fun n m s s' f => ⟨fun h => run_succ_of_fault h n, run_faulted n m s s' f⟩

/-- Settles O11: each step completes one word of an unchanged program; and the pc stays at the next word. -/
theorem everyProgramRunEnds : Obligations.EveryProgramRunEnds := by
  intro s hzero
  refine ⟨fun s' => run_ne_outOfFuel _ s s' (by omega), fun s' hrun => ?_⟩
  obtain ⟨⟨hprog, hbase, hle⟩, hend⟩ :=
    run_ended_of_kept (P := Within s.program s.base) within_kept _ s s' ⟨rfl, rfl, by omega⟩ hrun
  have hcount : s'.completed = s.program.length :=
    le_antisymm hle (hprog ▸ fetch_eq_ended_iff.1 hend)
  refine ⟨hprog, hcount, fun hpc hlt => ?_⟩
  have hnext : s'.nextAddress = s.base.toNat + 4 * s.program.length := by rw [State.nextAddress, hbase, hcount]
  have hat := run_ended_of_kept (P := fun a => a.nextAddress < 2 ^ 64 → a.pc.toNat = a.nextAddress)
    (fun _ _ => step_keeps_pc_at_next) _ s s' (fun _ => by simp [State.nextAddress, hzero, hpc]) hrun
  rw [← hnext]
  exact hat.1 (by omega)

/-- Settles O46: the words left at the first word are all of the program. -/
theorem runIsWordsInOrder : Obligations.RunIsWordsInOrder := by
  intro s hzero hpc hbase
  refine run_eq_runWords s.program s (by rw [hzero, List.drop_zero]) ⟨hbase, fun _ => ?_⟩
  rw [hpc, State.nextAddress, hzero, Nat.mul_zero, Nat.add_zero]

/-- Settles O47: a step moves the pc and the place in the program on together, and a load puts both at the same
multiple of 4. -/
theorem pcAtNextWordIsKept : Obligations.PcAtNextWordIsKept := by
  refine ⟨fun s s' ⟨hbase, hpc⟩ h => ?_, fun s ws => ?_⟩
  · obtain ⟨-, -, hbase', -, -⟩ := step_moves_on h
    exact ⟨by rw [hbase', hbase], step_keeps_pc_at_next hpc h⟩
  · have := s.pc.isLt
    simp only [State.PcAtNextWord, State.nextAddress, State.load, BitVec.toNat_ofNat]
    omega

/-- Settles O48: the program and the pc are both at address 0. -/
theorem pcAtNextWordAtReset : Obligations.PcAtNextWordAtReset := ⟨rfl, fun _ => rfl⟩

end Sys2Proof.Claims
end

section
/-! PROOF. What an access reaches: when it goes on to a copy or to the virtual register (R51 to R53), and in which mode
it reaches a copy (R55, R57, R62, R63). Where it stops follows from that alone. -/

namespace Sys2Proof.Claims

open Sys2Proof.Machine

section
variable {s : State}

/-! ### When an access goes on -/

theorem resolve_of_physicalAtEl1 (h : PhysicalAtEl1 s) : resolve s.params s.ctl = .phys (physicalCopy s) := by
  obtain ⟨hel, hsre, htall1, himo, hirq⟩ := h
  rw [resolve_of_el1 hel, if_neg (by simp [hsre]), if_neg htall1, if_neg himo, if_neg hirq]

theorem resolve_of_physicalAtEl2 (h : PhysicalAtEl2 s) : resolve s.params s.ctl = .phys (physicalCopy s) := by
  obtain ⟨hel, hsre, hirq⟩ := h
  rw [resolve_of_el2 hel, if_neg (by simp [hsre]), if_neg hirq]

theorem resolve_of_physicalAtEl3 (h : PhysicalAtEl3 s) : resolve s.params s.ctl = .phys (bankedCopy s.ctl) := by
  obtain ⟨hel, -, hsre⟩ := h
  rw [resolve_of_el3 hel, if_neg (by simp [hsre])]

theorem resolve_of_physical (h : PhysicalAtEl1 s ∨ PhysicalAtEl2 s) :
    resolve s.params s.ctl = .phys (physicalCopy s) :=
  h.elim resolve_of_physicalAtEl1 resolve_of_physicalAtEl2

theorem el_ne_el3 (h : s.ctl.el = .el1 ∨ s.ctl.el = .el2) : s.ctl.el ≠ .el3 := by
  rcases h with h | h <;> simp [h]

theorem el_of_physical (h : PhysicalAtEl1 s ∨ PhysicalAtEl2 s) : s.ctl.el = .el1 ∨ s.ctl.el = .el2 :=
  h.imp (·.1) (·.1)

/-- Below EL3 an access that reaches a copy is neither trapped nor redirected. -/
theorem physical_of_resolve_phys {c : Copy} (h : resolve s.params s.ctl = .phys c) (hel : s.ctl.el ≠ .el3) :
    PhysicalAtEl1 s ∨ PhysicalAtEl2 s := by
  cases hs : s.ctl.el with
  | el0 => rw [resolve_of_el0 hs] at h; cases h
  | el1 =>
    rw [resolve_of_el1 hs] at h
    split_ifs at h with hsre htall1 himo hirq
    exact .inl ⟨hs, by simpa using hsre, htall1, himo, hirq⟩
  | el2 =>
    rw [resolve_of_el2 hs] at h
    split_ifs at h with hsre hirq
    exact .inr ⟨hs, by simpa using hsre, hirq⟩
  | el3 => exact absurd hs hel

theorem resolve_eq_virtual_iff : resolve s.params s.ctl = .virtual ↔ VirtualAtEl1 s := by
  refine ⟨fun h => ?_, resolve_of_virtualAtEl1⟩
  cases hs : s.ctl.el with
  | el0 => rw [resolve_of_el0 hs] at h; cases h
  | el1 =>
    rw [resolve_of_el1 hs] at h
    split_ifs at h with hsre htall1 himo
    exact ⟨hs, by simpa using hsre, himo.1, by simpa [himo.1] using htall1, himo.2⟩
  | el2 => rw [resolve_of_el2 hs] at h; split_ifs at h
  | el3 => rw [resolve_of_el3 hs] at h; split_ifs at h

/-! ### The copy an access names -/

theorem physicalCopy_secure (h3 : s.params.haveEL3 = true) (hns : s.ctl.scrEl3Ns = false) : physicalCopy s = .s := by
  simp [physicalCopy, bankedCopy, h3, hns]

theorem physicalCopy_nonSecure (h3 : s.params.haveEL3 = true) (hns : s.ctl.scrEl3Ns = true) : physicalCopy s = .ns := by
  simp [physicalCopy, bankedCopy, h3, hns]

theorem physicalCopy_noEl3 (h3 : s.params.haveEL3 = false) : physicalCopy s = .u := by
  simp [physicalCopy, h3]

/-- Below EL3 an access that reaches a copy reaches the one copy of `physicalCopy`. -/
theorem eq_physicalCopy {c : Copy} (h : resolve s.params s.ctl = .phys c) (hel : s.ctl.el ≠ .el3) :
    c = physicalCopy s := by
  rw [resolve_of_physical (physical_of_resolve_phys h hel)] at h
  cases h
  rfl

/-! ### The mode of a physical access -/

/-- R53: at EL3 no common binary point control applies. -/
theorem physMode_of_el3 (hel : s.ctl.el = .el3) (c : Copy) : physMode s.params s.ctl c = .direct := by
  cases c <;> simp [physMode, hel]

/-- R55: the Secure copy at EL1. -/
theorem physMode_secure_of_el1 (h3 : s.params.haveEL3 = true) (hel : s.ctl.el = .el1) :
    physMode s.params s.ctl .s = if s.ctl.iccCtlrEl3CbprEl1S = true then .aliasBpr0 else .direct := by
  simp [physMode, h3, hel]

theorem physMode_secure_of_el2 (h3 : s.params.haveEL3 = true) (hel : s.ctl.el = .el2) :
    physMode s.params s.ctl .s = .direct := by
  simp [physMode, h3, hel]

/-- R57: the Non-secure copy at EL1 and EL2. -/
theorem physMode_nonSecure (h3 : s.params.haveEL3 = true) (hel : s.ctl.el = .el1 ∨ s.ctl.el = .el2) :
    physMode s.params s.ctl .ns = if s.ctl.iccCtlrEl3CbprEl1Ns = true then .mirrorBpr0 else .direct := by
  rcases hel with hel | hel <;> simp [physMode, h3, hel]

/-- R62: without EL3, at EL1 and EL2. -/
theorem physMode_noEl3 (h3 : s.params.haveEL3 = false) (hel : s.ctl.el = .el1 ∨ s.ctl.el = .el2) (c : Copy) :
    physMode s.params s.ctl c =
      if s.ctl.iccCtlrEl1Cbpr = true then if s.params.noEl3NonSecure = true then .mirrorBpr0 else .refused
      else .direct := by
  rcases hel with hel | hel <;> simp [physMode, h3, hel]

theorem physMode_ne_refused (h3 : s.params.haveEL3 = true) (c : Copy) : physMode s.params s.ctl c ≠ .refused := by
  cases c <;> cases hel : s.ctl.el <;> simp [physMode, h3, hel, ite_eq_iff]

/-- R62: the mode of the one refused access. -/
theorem physMode_eq_refused_iff {c : Copy} :
    physMode s.params s.ctl c = .refused ↔
      s.params.haveEL3 = false ∧ s.params.noEl3NonSecure = false ∧ s.ctl.iccCtlrEl1Cbpr = true ∧
      (s.ctl.el = .el1 ∨ s.ctl.el = .el2) := by
  cases h3 : s.params.haveEL3 with
  | true => simp [physMode_ne_refused h3]
  | false =>
    by_cases hel : s.ctl.el = .el1 ∨ s.ctl.el = .el2
    · rw [physMode_noEl3 h3 hel]
      split_ifs <;> simp_all
    · obtain hel0 | hel3 : s.ctl.el = .el0 ∨ s.ctl.el = .el3 := by cases h : s.ctl.el <;> simp_all
      · simp [physMode, h3, hel0]
      · simp [physMode_of_el3 hel3, hel3]

/-! ### The Security state of an access -/

theorem accessSecurity_of_haveEL3 (h3 : s.params.haveEL3 = true) (hel : s.ctl.el = .el1 ∨ s.ctl.el = .el2) :
    accessSecurity s.params s.ctl = some (if s.ctl.scrEl3Ns = true then .nonSecure else .secure) := by
  rcases hel with hel | hel <;> simp [accessSecurity, h3, hel]

theorem accessSecurity_noEl3 (h3 : s.params.haveEL3 = false) :
    accessSecurity s.params s.ctl = some (if s.params.noEl3NonSecure = true then .nonSecure else .secure) := by
  simp [accessSecurity, h3]

end

/-! ### Where an instruction stops -/

section
variable {s s' : State} (i j : Instr) (hp : s'.params = s.params) (hc : s'.ctl = s.ctl)
include hp hc

theorem exec_fault_congr (f : Fault) : exec i s = .fault f ↔ exec j s' = .fault f := by
  rw [exec_fault_iff, exec_fault_iff, hp, hc]

theorem exec_refused_congr (r : Refusal) : exec i s = .refused r ↔ exec j s' = .refused r := by
  rw [exec_refused_iff, exec_refused_iff, hp, hc]

end

/-- Settles O15: the resolution and the mode of an access read the parameters and the inputs only. -/
theorem stopsDependOnlyOnInputs : Obligations.StopsDependOnlyOnInputs :=
  fun i j _ _ hp hc => ⟨exec_fault_congr i j hp hc, exec_refused_congr i j hp hc⟩

/-- Settles O16: the one refusal is the mode `Refused`, which no access at EL3 has. -/
theorem refusedExactlyWithoutEl3Secure : Obligations.RefusedExactlyWithoutEl3Secure := by
  intro i s r
  rw [exec_refused_iff]
  constructor
  · rintro ⟨hr, c, hres, hmode⟩
    obtain ⟨h3, hns, hcbpr, hel⟩ := physMode_eq_refused_iff.1 hmode
    exact ⟨hr, h3, hns, hcbpr, physical_of_resolve_phys hres (el_ne_el3 hel)⟩
  · rintro ⟨hr, h3, hns, hcbpr, hphys⟩
    exact ⟨hr, _, resolve_of_physical hphys, physMode_eq_refused_iff.2 ⟨h3, hns, hcbpr, el_of_physical hphys⟩⟩

/-- Settles O28: with EL3 the copy an access names is that of its Security state; without, the one unbanked copy
serves both. At EL3 the mode is `Direct`. -/
theorem physicalModeFollowsFieldProse : Obligations.PhysicalModeFollowsFieldProse := by
  intro s c h3only hres
  by_cases hel3 : s.ctl.el = .el3
  · have h3 := h3only hel3
    simp [physMode_of_el3 hel3, accessSecurity, h3, hel3]
  · have hphys := physical_of_resolve_phys hres hel3
    have hel := el_of_physical hphys
    obtain rfl := eq_physicalCopy hres hel3
    cases h3 : s.params.haveEL3 with
    | true =>
      rw [accessSecurity_of_haveEL3 h3 hel]
      cases hns : s.ctl.scrEl3Ns with
      | false =>
        rw [physicalCopy_secure h3 hns]
        rcases hel with hel | hel
        · rw [physMode_secure_of_el1 h3 hel]
          cases s.ctl.iccCtlrEl3CbprEl1S <;> simp [hel]
        · simp [physMode_secure_of_el2 h3 hel, hel]
      | true =>
        rw [physicalCopy_nonSecure h3 hns, physMode_nonSecure h3 hel]
        cases s.ctl.iccCtlrEl3CbprEl1Ns <;> simp [hel]
    | false =>
      rw [accessSecurity_noEl3 h3, physMode_noEl3 h3 hel]
      cases s.ctl.iccCtlrEl1Cbpr <;> cases s.params.noEl3NonSecure <;> simp [hel]

end Sys2Proof.Claims
end

section
/-! PROOF. What a completed access does (R55 to R62). Each mode of a physical access, and the virtual access, has its
effect said once for both instructions; the statements about each Exception level then only find the copy and the
mode. -/

namespace Sys2Proof.Claims

open Sys2Proof.Machine

section
variable {s : State} {c : Copy} (t : RegNum)

/-! ### The model's values in the terms of the statements -/

theorem bpr1Value_eq_extended (s : State) (c : Copy) : s.bpr1Value c = Extended (s.bpr1.get c) := by
  simp only [State.bpr1Value, zext64, Extended, BitVec.ofNat_toNat]

theorem mirrorValue_eq_bpr0PlusOne (s : State) : mirrorValue s.ext.iccBpr0 = Bpr0PlusOne s := by
  apply BitVec.eq_of_toNat_eq
  rw [mirrorValue_toNat, Bpr0PlusOne, BitVec.toNat_ofNat]
  omega

theorem minOf_eq_minimum (p : Params) (c : Copy) : minOf p c = Minimum p c := by
  obtain ⟨-, -, m, -⟩ := p
  cases c <;> cases m <;> rfl

/-! ### What every instruction that completes leaves unchanged -/

theorem pcMovesOn_advance (s : State) : PcMovesOn s s.advance := ⟨nextPc_toNat, rfl⟩

theorem mrsFrame_writeX (s : State) (v : Word) : MrsFrame t s (s.writeX t v).advance :=
  ⟨fun _ hu => s.readX_writeX_other v hu, ⟨rfl, rfl, rfl, rfl⟩, rfl, rfl⟩

theorem msrFrame_of_x_eq {r : State} (hx : r.x = s.x) (hs : SameSurroundings s r) : MsrFrame s r :=
  ⟨fun u => congrArg (readReg · u) hx, hs⟩

/-- An `MRS` that writes `v` to its register and moves on has read `v`. -/
theorem mrsReads_of_next {v : Word} (h : exec (.mrs t) s = .next (s.writeX t v).advance) : MrsReads t s v :=
  ⟨_, h, s.readX_writeX_same t v, mrsFrame_writeX t s v, pcMovesOn_advance s⟩

/-! ### The virtual access (R56) -/

theorem goesVirtual_of_resolve (hr : resolve s.params s.ctl = .virtual) : GoesVirtual s := fun t =>
  ⟨mrsReads_of_next t (exec_mrs_virtual t hr),
   _, exec_msr_virtual t hr, rfl, rfl, rfl, rfl, rfl, msrFrame_of_x_eq rfl ⟨rfl, rfl, rfl, rfl⟩, pcMovesOn_advance s⟩

/-! ### Mode `Direct` (R58, R59) -/

theorem physRead_of_direct (h : ReachesCell s c) : physRead s c = some (s.bpr1Value c) := by
  simp only [physRead, h.2]

theorem physWrite_of_direct (h : ReachesCell s c) (v : Word) :
    physWrite s c v = some (s.writeBpr1 c (binaryPoint v)) := by
  simp only [physWrite, h.2]

theorem exec_mrs_direct (h : ReachesCell s c) : exec (.mrs t) s = .next (s.writeX t (s.bpr1Value c)).advance :=
  exec_mrs_phys t h.1 (physRead_of_direct h)

theorem exec_msr_direct (h : ReachesCell s c) :
    exec (.msr t) s = .next (s.writeBpr1 c (binaryPoint (s.readX t))).advance :=
  exec_msr_phys t h.1 (physWrite_of_direct h _)

theorem mrsReads_of_direct (h : ReachesCell s c) : MrsReads t s (Extended (s.bpr1.get c)) :=
  bpr1Value_eq_extended s c ▸ mrsReads_of_next t (exec_mrs_direct t h)

/-- The stored field after a write that reaches it (R17). -/
theorem written_toNat (s : State) (c : Copy) :
    ((s.writeBpr1 c (binaryPoint (s.readX t))).bpr1.get c).toNat =
      max ((s.readX t).toNat % 8) (Minimum s.params c) := by
  rw [writeBpr1_get_same, binaryPoint_toNat, minOf_eq_minimum]

theorem msrStores_of_direct (h : ReachesCell s c) : MsrStores t s c (Minimum s.params c) :=
  ⟨_, exec_msr_direct t h, written_toNat t s c, fun _ hd => Bpr1Cells.get_set_other _ _ hd, rfl,
   msrFrame_of_x_eq rfl ⟨rfl, rfl, rfl, rfl⟩, pcMovesOn_advance s⟩

theorem goesDirect_of_reachesCell (h : ReachesCell s c) : GoesDirect s c := fun t =>
  ⟨mrsReads_of_direct t h, msrStores_of_direct t h⟩

/-! ### Modes `AliasBPR0` and `MirrorBPR0` -/

theorem physWrite_of_alias (hm : physMode s.params s.ctl c = .aliasBpr0) (v : Word) :
    physWrite s c v = some (s.writeIccBpr0 v) := by
  simp only [physWrite, hm]

theorem physWrite_of_mirror (hm : physMode s.params s.ctl c = .mirrorBpr0) (v : Word) : physWrite s c v = some s := by
  simp only [physWrite, hm]

section
variable (hr : resolve s.params s.ctl = .phys c)
include hr

theorem mrsReads_of_alias (hm : physMode s.params s.ctl c = .aliasBpr0) : MrsReads t s s.ext.iccBpr0 :=
  mrsReads_of_next t (exec_mrs_phys t hr (by simp only [physRead, hm]))

theorem msrWritesBpr0_of_alias (hm : physMode s.params s.ctl c = .aliasBpr0) : MsrWritesBpr0 t s :=
  ⟨_, exec_msr_phys t hr (physWrite_of_alias hm _), rfl, rfl, rfl, rfl, rfl, msrFrame_of_x_eq rfl ⟨rfl, rfl, rfl, rfl⟩,
   pcMovesOn_advance s⟩

theorem mrsReads_of_mirror (hm : physMode s.params s.ctl c = .mirrorBpr0) : MrsReads t s (Bpr0PlusOne s) :=
  mrsReads_of_next t (exec_mrs_phys t hr (by simp only [physRead, hm, mirrorValue_eq_bpr0PlusOne]))

theorem msrIgnored_of_mirror (hm : physMode s.params s.ctl c = .mirrorBpr0) : MsrIgnored t s :=
  ⟨_, exec_msr_phys t hr (physWrite_of_mirror hm _), rfl, rfl, msrFrame_of_x_eq rfl ⟨rfl, rfl, rfl, rfl⟩,
   pcMovesOn_advance s⟩

theorem mirrors_of_mode (hm : physMode s.params s.ctl c = .mirrorBpr0) : Mirrors s := fun t =>
  ⟨mrsReads_of_mirror t hr hm, msrIgnored_of_mirror t hr hm⟩

end

/-! ### The copy and the mode at each Exception level -/

theorem reachesCell_at_el3 (h : PhysicalAtEl3 s) : ReachesCell s (bankedCopy s.ctl) :=
  ⟨resolve_of_physicalAtEl3 h, physMode_of_el3 h.1 _⟩

theorem reachesCell_secure_at_el3 (h : PhysicalAtEl3 s) (hns : s.ctl.scrEl3Ns = false) : ReachesCell s .s := by
  simpa [bankedCopy, hns] using reachesCell_at_el3 h

theorem reachesCell_nonSecure_at_el3 (h : PhysicalAtEl3 s) (hns : s.ctl.scrEl3Ns = true) : ReachesCell s .ns := by
  simpa [bankedCopy, hns] using reachesCell_at_el3 h

section
variable (h3 : s.params.haveEL3 = true)
include h3

theorem resolve_secure (h : PhysicalAtEl1 s ∨ PhysicalAtEl2 s) (hns : s.ctl.scrEl3Ns = false) :
    resolve s.params s.ctl = .phys .s :=
  physicalCopy_secure h3 hns ▸ resolve_of_physical h

theorem resolve_nonSecure (h : PhysicalAtEl1 s ∨ PhysicalAtEl2 s) (hns : s.ctl.scrEl3Ns = true) :
    resolve s.params s.ctl = .phys .ns :=
  physicalCopy_nonSecure h3 hns ▸ resolve_of_physical h

theorem reachesCell_secure_at_el2 (h : PhysicalAtEl2 s) (hns : s.ctl.scrEl3Ns = false) : ReachesCell s .s :=
  ⟨resolve_secure h3 (.inr h) hns, physMode_secure_of_el2 h3 h.1⟩

theorem reachesCell_secure_at_el1 (h : PhysicalAtEl1 s) (hns : s.ctl.scrEl3Ns = false)
    (hcbpr : s.ctl.iccCtlrEl3CbprEl1S = false) : ReachesCell s .s :=
  ⟨resolve_secure h3 (.inl h) hns, by simp [physMode_secure_of_el1 h3 h.1, hcbpr]⟩

theorem alias_at_el1 (h : PhysicalAtEl1 s) (hcbpr : s.ctl.iccCtlrEl3CbprEl1S = true) :
    physMode s.params s.ctl .s = .aliasBpr0 := by
  rw [physMode_secure_of_el1 h3 h.1, if_pos hcbpr]

theorem reachesCell_nonSecure (h : PhysicalAtEl1 s ∨ PhysicalAtEl2 s) (hns : s.ctl.scrEl3Ns = true)
    (hcbpr : s.ctl.iccCtlrEl3CbprEl1Ns = false) : ReachesCell s .ns :=
  ⟨resolve_nonSecure h3 h hns, by simp [physMode_nonSecure h3 (el_of_physical h), hcbpr]⟩

theorem mirrors_nonSecure (h : PhysicalAtEl1 s ∨ PhysicalAtEl2 s) (hns : s.ctl.scrEl3Ns = true)
    (hcbpr : s.ctl.iccCtlrEl3CbprEl1Ns = true) : Mirrors s :=
  mirrors_of_mode (resolve_nonSecure h3 h hns) (by rw [physMode_nonSecure h3 (el_of_physical h), if_pos hcbpr])

end

section
variable (h3 : s.params.haveEL3 = false) (h : PhysicalAtEl1 s ∨ PhysicalAtEl2 s)
include h3 h

theorem resolve_noEl3 : resolve s.params s.ctl = .phys .u := physicalCopy_noEl3 h3 ▸ resolve_of_physical h

theorem reachesCell_noEl3 (hcbpr : s.ctl.iccCtlrEl1Cbpr = false) : ReachesCell s .u :=
  ⟨resolve_noEl3 h3 h, by simp [physMode_noEl3 h3 (el_of_physical h), hcbpr]⟩

theorem mirrors_noEl3 (hcbpr : s.ctl.iccCtlrEl1Cbpr = true) (hns : s.params.noEl3NonSecure = true) : Mirrors s :=
  mirrors_of_mode (resolve_noEl3 h3 h) (by rw [physMode_noEl3 h3 (el_of_physical h), if_pos hcbpr, if_pos hns])

theorem exec_refused_noEl3 (hcbpr : s.ctl.iccCtlrEl1Cbpr = true) (hns : s.params.noEl3NonSecure = false) (i : Instr) :
    exec i s = .refused .secureAccessWithoutEl3 :=
  (refusedExactlyWithoutEl3Secure i s _).2 ⟨rfl, h3, hns, hcbpr, h⟩

end

end

/-! ### The statements for each Exception level -/

/-- Settles O17: the third test of R51 alone redirects, and what follows it touches no copy. -/
theorem virtualAccessGoesToIcv : Obligations.VirtualAccessGoesToIcv :=
  fun _ => ⟨resolve_eq_virtual_iff, fun h => goesVirtual_of_resolve (resolve_eq_virtual_iff.2 h)⟩

/-- Settles O18: at EL3 every access that is not trapped reaches the selected copy itself. -/
theorem mrsAtEl3ReadsSelectedCopy : Obligations.MrsAtEl3ReadsSelectedCopy := fun t _ h =>
  ⟨fun hns => mrsReads_of_direct t (reachesCell_secure_at_el3 h hns),
   fun hns => mrsReads_of_direct t (reachesCell_nonSecure_at_el3 h hns)⟩

/-- Settles O19: at EL3 every access that is not trapped reaches the selected copy itself. -/
theorem msrAtEl3WritesSelectedCopy : Obligations.MsrAtEl3WritesSelectedCopy := fun t _ h =>
  ⟨fun hns => msrStores_of_direct t (reachesCell_secure_at_el3 h hns),
   fun hns => msrStores_of_direct t (reachesCell_nonSecure_at_el3 h hns)⟩

/-- Settles O20: `CBPR_EL1NS` is the one control in force at EL2. -/
theorem mrsAtEl2WithEl3 : Obligations.MrsAtEl2WithEl3 := fun t _ h h3 =>
  ⟨fun hns => mrsReads_of_direct t (reachesCell_secure_at_el2 h3 h hns),
   fun hns hcbpr => mrsReads_of_direct t (reachesCell_nonSecure h3 (.inr h) hns hcbpr),
   fun hns hcbpr => (mirrors_nonSecure h3 (.inr h) hns hcbpr t).1⟩

/-- Settles O21: `CBPR_EL1NS` is the one control in force at EL2. -/
theorem msrAtEl2WithEl3 : Obligations.MsrAtEl2WithEl3 := fun t _ h h3 =>
  ⟨fun hns => msrStores_of_direct t (reachesCell_secure_at_el2 h3 h hns),
   fun hns hcbpr => msrStores_of_direct t (reachesCell_nonSecure h3 (.inr h) hns hcbpr),
   fun hns hcbpr => (mirrors_nonSecure h3 (.inr h) hns hcbpr t).2⟩

/-- Settles O22: each copy has its own control in force at EL1. -/
theorem mrsAtEl1WithEl3 : Obligations.MrsAtEl1WithEl3 := fun t _ h h3 =>
  ⟨fun hns hcbpr => mrsReads_of_direct t (reachesCell_secure_at_el1 h3 h hns hcbpr),
   fun hns hcbpr => mrsReads_of_alias t (resolve_secure h3 (.inl h) hns) (alias_at_el1 h3 h hcbpr),
   fun hns hcbpr => mrsReads_of_direct t (reachesCell_nonSecure h3 (.inl h) hns hcbpr),
   fun hns hcbpr => (mirrors_nonSecure h3 (.inl h) hns hcbpr t).1⟩

/-- Settles O23: each copy has its own control in force at EL1. -/
theorem msrAtEl1WithEl3 : Obligations.MsrAtEl1WithEl3 := fun t _ h h3 =>
  ⟨fun hns hcbpr => msrStores_of_direct t (reachesCell_secure_at_el1 h3 h hns hcbpr),
   fun hns hcbpr => msrWritesBpr0_of_alias t (resolve_secure h3 (.inl h) hns) (alias_at_el1 h3 h hcbpr),
   fun hns hcbpr => msrStores_of_direct t (reachesCell_nonSecure h3 (.inl h) hns hcbpr),
   fun hns hcbpr => (mirrors_nonSecure h3 (.inl h) hns hcbpr t).2⟩

/-- Settles O24: `ICC_CTLR_EL1.CBPR` is the one control in force without EL3. -/
theorem mrsWithoutEl3 : Obligations.MrsWithoutEl3 := fun t _ h h3 =>
  ⟨fun hcbpr => mrsReads_of_direct t (reachesCell_noEl3 h3 h hcbpr),
   fun hcbpr hns => (mirrors_noEl3 h3 h hcbpr hns t).1,
   fun hcbpr hns => exec_refused_noEl3 h3 h hcbpr hns _⟩

/-- Settles O25: `ICC_CTLR_EL1.CBPR` is the one control in force without EL3. -/
theorem msrWithoutEl3 : Obligations.MsrWithoutEl3 := fun t _ h h3 =>
  ⟨fun hcbpr => msrStores_of_direct t (reachesCell_noEl3 h3 h hcbpr),
   fun hcbpr hns => (mirrors_noEl3 h3 h hcbpr hns t).2,
   fun hcbpr hns => exec_refused_noEl3 h3 h hcbpr hns _⟩

/-! ### The two tables, where they can be compared with the pseudocode -/

section
variable {s : State} (hc : TableComparable s)
include hc

theorem virtual_of_comparable (hel : s.ctl.el = .el1) (himo : s.ctl.hcrEl2Imo = true) : GoesVirtual s := by
  obtain ⟨hsre, -, htall1, h32, -, hen⟩ := hc
  exact goesVirtual_of_resolve (resolve_of_virtualAtEl1 ⟨hel, hsre hel, ⟨hen himo, h32⟩, htall1, himo⟩)

section
variable (hel : s.ctl.el = .el1 ∨ s.ctl.el = .el2) (himo : s.ctl.el = .el1 → s.ctl.hcrEl2Imo = false)
include hel himo

theorem physical_of_comparable (hirq : ¬El3TakesAccesses s) : PhysicalAtEl1 s ∨ PhysicalAtEl2 s := by
  obtain ⟨hsre1, hsre2, htall1, -, -, -⟩ := hc
  rcases hel with hel | hel
  · exact .inl ⟨hel, hsre1 hel, by simp [htall1], by simp [himo hel], hirq⟩
  · exact .inr ⟨hel, hsre2 hel, hirq⟩

theorem traps_of_comparable (h3 : s.params.haveEL3 = true) (hirq : s.ctl.scrEl3Irq = true) : Traps s .el3 := by
  obtain ⟨hsre1, hsre2, htall1, -, h32, -⟩ := hc
  have htakes : El3TakesAccesses s := ⟨h3, h32, hirq⟩
  obtain ⟨hAtEl1, hAtEl2, -⟩ := firstExceptionCauseWins s
  rcases hel with hel | hel
  · obtain ⟨-, -, -, htrap⟩ := hAtEl1 hel
    exact htrap (hsre1 hel) (by simp [htall1]) (by simp [himo hel]) htakes
  · exact (hAtEl2 hel).2 (hsre2 hel) htakes

end

end

/-- Settles O26: in the states compared, `IMO` decides at EL1 whether the access is virtual, and then `SCR_EL3.IRQ`
whether it is trapped; what is left mirrors. -/
theorem nonSecureCommonBinaryPointTable : Obligations.NonSecureCommonBinaryPointTable := by
  intro s h3 hcbpr hns
  have hmirrors : PhysicalAtEl1 s ∨ PhysicalAtEl2 s → Mirrors s := fun h => mirrors_nonSecure h3 h hns hcbpr
  refine ⟨fun hc hel => ⟨fun himo hirq => ?_, fun himo hirq => ?_, fun himo hirq => ⟨fun hel1 => ?_, fun hel2 => ?_⟩,
    fun himo hirq => ⟨fun hel1 => ?_, fun hel2 => ?_⟩⟩, fun hel hres => ?_, fun h => ?_⟩
  · exact hmirrors (physical_of_comparable hc hel (fun _ => himo) (by simp [hirq]))
  · exact traps_of_comparable hc hel (fun _ => himo) h3 hirq
  · exact virtual_of_comparable hc hel1 himo
  · exact hmirrors (physical_of_comparable hc hel (by simp [hel2]) (by simp [hirq]))
  · exact virtual_of_comparable hc hel1 himo
  · exact traps_of_comparable hc hel (by simp [hel2]) h3 hirq
  · exact hmirrors (physical_of_resolve_phys hres (el_ne_el3 hel))
  · exact goesDirect_of_reachesCell (reachesCell_nonSecure_at_el3 h hns)

/-- Settles O27: as with EL3, but no access is trapped to EL3, and a Secure access is refused. -/
theorem commonBinaryPointTableWithoutEl3 : Obligations.CommonBinaryPointTableWithoutEl3 := by
  intro s h3 hcbpr hel
  refine ⟨fun hns => ⟨fun hc => ⟨fun himo => ?_, fun himo => ⟨fun hel1 => ?_, fun hel2 => ?_⟩⟩, fun hres => ?_⟩,
    fun hns hres i => ?_⟩
  · exact mirrors_noEl3 h3 (physical_of_comparable hc hel (fun _ => himo) (by simp [h3])) hcbpr hns
  · exact virtual_of_comparable hc hel1 himo
  · exact mirrors_noEl3 h3 (physical_of_comparable hc hel (by simp [hel2]) (by simp [h3])) hcbpr hns
  · exact mirrors_noEl3 h3 (physical_of_resolve_phys hres (el_ne_el3 hel)) hcbpr hns
  · exact exec_refused_noEl3 h3 (physical_of_resolve_phys hres (el_ne_el3 hel)) hcbpr hns i

end Sys2Proof.Claims
end

section
/-! PROOF. Reset and the views of the register: what a reset draws (R90, R91), the AArch32 register (R15), and the
split of an interrupt priority (R18, R19). -/

namespace Sys2Proof.Claims

open Sys2Proof.Machine

/-! ### The 64-bit value of a copy -/

theorem shiftRight_eq_zero {w k : Nat} {x : BitVec w} (h : x.toNat < 2 ^ k) : x >>> k = 0 := by
  apply BitVec.eq_of_toNat_eq
  rw [BitVec.toNat_ushiftRight, Nat.shiftRight_eq_div_pow, Nat.div_eq_of_lt h]
  rfl

theorem zext64_shiftRight (b : BinaryPoint) {k : Nat} (hk : 3 ≤ k) : zext64 b >>> k = 0 :=
  shiftRight_eq_zero (by
    rw [zext64_toNat]
    exact b.isLt.trans_le (Nat.pow_le_pow_right (by decide) hk))

/-! ### Reset -/

/-- R90, R91: a reset draws the copies that exist. -/
theorem applyReset_get (s : State) (draw : Copy → BinaryPoint) (c : Copy) :
    (s.applyReset draw).bpr1.get c = if copyExists s.params c = true then draw c else s.bpr1.get c := by
  cases h3 : s.params.haveEL3 <;> cases c <;> simp [State.applyReset, copyExists, h3, Bpr1Cells.get]

/-- The draw of `a` for the Secure and the unbanked copy and of `b` for the Non-secure one. -/
def drawOf (a b : BinaryPoint) : Copy → BinaryPoint
  | .s | .u => a
  | .ns => b

/-- Settles O43: the draw is free for each copy, and only the copies change. -/
theorem resetDrawsEveryCopy : Obligations.ResetDrawsEveryCopy := by
  refine ⟨fun s draw c => ⟨fun h => ?_, fun h => ?_, zext64_shiftRight _ le_rfl⟩,
    fun s a b => ⟨drawOf a b, fun h3 => ⟨?_, ?_⟩, fun h3 => ?_⟩, fun s draw => ⟨(s.applyReset draw).bpr1, rfl⟩⟩
  · rw [applyReset_get, if_pos h]
  · rw [applyReset_get, if_neg (by simp [h])]
  · exact (applyReset_get s _ .s).trans (if_pos h3)
  · exact (applyReset_get s _ .ns).trans (if_pos h3)
  · exact (applyReset_get s _ .u).trans (if_pos (by simp [copyExists, h3]))

/-! ### The views -/

theorem iccBpr1AArch32_toNat (s : State) (c : Copy) : (s.iccBpr1AArch32 c).toNat = (s.bpr1.get c).toNat := by
  have := (s.bpr1.get c).isLt
  rw [State.iccBpr1AArch32, State.bpr1Value, BitVec.toNat_setWidth, zext64_toNat]
  omega

/-- Settles O44: a copy is 3 bits zero-extended to 64, so its low 32 bits are the same 3 bits zero-extended. -/
theorem aArch32RegisterIsSameStorage : Obligations.AArch32RegisterIsSameStorage := by
  intro s c
  have hlt := (s.bpr1.get c).isLt
  refine ⟨?_, ?_, ?_, zext64_shiftRight _ (by decide)⟩
  · exact BitVec.setWidth_eq_extractLsb' (by decide)
  · apply BitVec.eq_of_toNat_eq
    rw [BitVec.extractLsb'_toNat, iccBpr1AArch32_toNat, Nat.shiftRight_zero, Nat.mod_eq_of_lt hlt]
  · exact shiftRight_eq_zero (iccBpr1AArch32_toNat s c ▸ hlt)

theorem splitAt_toNat (n : Fin 9) (P : Priority) :
    (splitAt n P).group.toNat = P.toNat / 2 ^ n.val ∧ (splitAt n P).sub.toNat = P.toNat % 2 ^ n.val := by
  refine ⟨?_, ?_⟩
  · rw [splitAt, BitVec.toNat_ushiftRight, Nat.shiftRight_eq_div_pow]
  · rw [splitAt, BitVec.toNat_ofNat, Nat.mod_eq_of_lt ((Nat.mod_le _ _).trans_lt P.isLt)]

/-- The upper part has the bits that the lower part leaves of the 8. -/
theorem priority_div_lt (n : Fin 9) (P : Priority) : P.toNat / 2 ^ n.val < 2 ^ (8 - n.val) := by
  have hsplit : 2 ^ n.val * 2 ^ (8 - n.val) = 2 ^ 8 := by
    rw [← pow_add, Nat.add_sub_cancel' (Nat.le_of_lt_succ n.isLt)]
  exact Nat.div_lt_of_lt_mul (hsplit ▸ P.isLt)

/-- Settles O45: the parts are the quotient and the remainder of the priority by a power of 2. -/
theorem prioritySplitLosesNothing : Obligations.PrioritySplitLosesNothing := by
  refine fun s c P => ⟨fun n => ?_, fun sp h => ?_, fun h => ?_, fun h => ?_⟩
  · obtain ⟨hgroup, hsub⟩ := splitAt_toNat n P
    rw [hgroup, hsub]
    exact ⟨Nat.div_add_mod' _ _, Nat.mod_lt _ (Nat.two_pow_pos _), priority_div_lt n P⟩
  · unfold State.group1Split at h
    split_ifs at h
    cases h
    exact ⟨_, rfl⟩
  · rw [State.group1Split, if_pos h]
  · rw [State.group1Split, if_neg (by simp [h])]

end Sys2Proof.Claims
end

section
/-! PROOF. What instructions and steps leave as it was (R12, R26, R33, R60, R61, R78). An instruction that completes
changes at most the stored field its access reaches; every invariant and every isolation statement follows from that. -/

namespace Sys2Proof.Claims

open Sys2Proof.Machine

/-! ### What an instruction that completes changes -/

section
variable {s s' : State} {c : Copy}

theorem mrsFrame_of_exec {t : RegNum} (h : exec (.mrs t) s = .next s') : MrsFrame t s s' ∧ PcMovesOn s s' := by
  rcases execMrs_next h with ⟨-, rfl⟩ | ⟨_, v, -, -, rfl⟩
  · exact ⟨mrsFrame_writeX t s _, pcMovesOn_advance s⟩
  · exact ⟨mrsFrame_writeX t s v, pcMovesOn_advance s⟩

/-- Everything an `MSR` that completes can do, by what its access reaches. -/
theorem exec_msr_cases {t : RegNum} (h : exec (.msr t) s = .next s') :
    (resolve s.params s.ctl = .virtual ∧ s' = (s.writeIcvBpr1 (s.readX t)).advance) ∨
    (∃ c, ReachesCell s c ∧ s' = (s.writeBpr1 c (binaryPoint (s.readX t))).advance) ∨
    (∃ c, resolve s.params s.ctl = .phys c ∧ physMode s.params s.ctl c = .aliasBpr0 ∧
      s' = (s.writeIccBpr0 (s.readX t)).advance) ∨
    (∃ c, resolve s.params s.ctl = .phys c ∧ physMode s.params s.ctl c = .mirrorBpr0 ∧ s' = s.advance) := by
  rcases execMsr_next h with ⟨hr, rfl⟩ | ⟨c, r, hr, hw, rfl⟩
  · exact .inl ⟨hr, rfl⟩
  · rcases physWrite_cases hw with ⟨hm, rfl⟩ | ⟨hm, rfl⟩ | ⟨hm, rfl⟩
    · exact .inr (.inl ⟨c, ⟨hr, hm⟩, rfl⟩)
    · exact .inr (.inr (.inl ⟨c, hr, hm, rfl⟩))
    · exact .inr (.inr (.inr ⟨c, hr, hm, rfl⟩))

theorem msrFrame_of_exec {t : RegNum} (h : exec (.msr t) s = .next s') : MsrFrame s s' ∧ PcMovesOn s s' := by
  rcases exec_msr_cases h with ⟨-, rfl⟩ | ⟨_, -, rfl⟩ | ⟨_, -, -, rfl⟩ | ⟨_, -, -, rfl⟩ <;>
    exact ⟨msrFrame_of_x_eq rfl ⟨rfl, rfl, rfl, rfl⟩, pcMovesOn_advance s⟩

theorem sameSurroundings_of_exec {i : Instr} (h : exec i s = .next s') : SameSurroundings s s' := by
  cases i with
  | mrs t => exact (mrsFrame_of_exec h).1.2.1
  | msr t => exact (msrFrame_of_exec h).1.2

/-- The copies change only by a write that reaches a stored field (R59). -/
theorem bpr1_of_exec {i : Instr} (h : exec i s = .next s') :
    s'.bpr1 = s.bpr1 ∨ ∃ c w, ReachesCell s c ∧ s'.bpr1 = (s.writeBpr1 c w).bpr1 := by
  cases i with
  | mrs t =>
    obtain ⟨⟨-, -, -, hbpr1⟩, -⟩ := mrsFrame_of_exec h
    exact .inl hbpr1
  | msr t =>
    rcases exec_msr_cases h with ⟨-, rfl⟩ | ⟨c, hc, rfl⟩ | ⟨_, -, -, rfl⟩ | ⟨_, -, -, rfl⟩
    · exact .inl rfl
    · exact .inr ⟨c, _, hc, rfl⟩
    · exact .inl rfl
    · exact .inl rfl

end

/-! ### The stored field -/

theorem binaryPoint_eq_of_mod {v w : Word} (h : v.toNat % 8 = w.toNat % 8) : binaryPoint v = binaryPoint w :=
  BitVec.eq_of_toNat_eq (by rw [binaryPoint_toNat, binaryPoint_toNat, h])

/-- A completed `MSR` leaves the copies that bits [2:0] of the register give, whatever its other bits are (R12). -/
theorem exec_msr_bpr1_congr {t : RegNum} {s r a : State} (hp : r.params = s.params) (hc : r.ctl = s.ctl)
    (hb : r.bpr1 = s.bpr1) (hx : binaryPoint (r.readX t) = binaryPoint (s.readX t))
    (h : exec (.msr t) s = .next a) : ∃ b, exec (.msr t) r = .next b ∧ b.bpr1 = a.bpr1 := by
  rcases exec_msr_cases h with ⟨hr, rfl⟩ | ⟨c, ⟨hr, hm⟩, rfl⟩ | ⟨c, hr, hm, rfl⟩ | ⟨c, hr, hm, rfl⟩ <;>
    rw [← hp, ← hc] at hr
  · exact ⟨_, exec_msr_virtual t hr, hb⟩
  all_goals rw [← hp, ← hc] at hm
  · refine ⟨_, exec_msr_direct t ⟨hr, hm⟩, ?_⟩
    simp [hp, hb, hx]
  · exact ⟨_, exec_msr_phys t hr (physWrite_of_alias hm _), hb⟩
  · exact ⟨_, exec_msr_phys t hr (physWrite_of_mirror hm _), hb⟩

theorem binaryPoint_readX_writeX_congr {t : RegNum} (s : State) {v w : Word} (h : v.toNat % 8 = w.toNat % 8) :
    binaryPoint ((s.writeX t v).readX t) = binaryPoint ((s.writeX t w).readX t) := by
  rw [State.readX_writeX_same, State.readX_writeX_same]
  split
  · rfl
  · exact binaryPoint_eq_of_mod h

theorem readX_writeX_of_ne {t : RegNum} (s : State) (v : Word) (h : t ≠ 31) : (s.writeX t v).readX t = v := by
  rw [State.readX_writeX_same, if_neg h]

/-- Settles O29: in mode `Direct` the write is the clamped one. -/
theorem directWriteIsClamped : Obligations.DirectWriteIsClamped := fun t _ _ => msrStores_of_direct t

/-- Settles O30: a copy is 3 bits zero-extended, and a write takes bits [2:0] of the register only. -/
theorem reservedBitsReadZeroAndIgnoreWrites : Obligations.ReservedBitsReadZeroAndIgnoreWrites := by
  refine ⟨fun t s s' c hc h => ?_, fun s c => zext64_shiftRight _ le_rfl, fun t s v w hvw => ?_⟩
  · rw [exec_mrs_direct t hc] at h
    cases h
    rw [State.readX_advance, State.readX_writeX_same]
    split
    · rfl
    · exact zext64_shiftRight _ le_rfl
  · split <;> rename_i h
    · exact exec_msr_bpr1_congr (s := s.writeX t v) rfl rfl rfl (binaryPoint_readX_writeX_congr s hvw.symm) h
    · exact (exec_fault_congr (s := s.writeX t v) (s' := s.writeX t w) _ _ rfl rfl _).1 h
    · exact (exec_refused_congr (s := s.writeX t v) (s' := s.writeX t w) _ _ rfl rfl _).1 h

/-- Settles O31: a read leaves all that the next read depends on. -/
theorem readsAreIdempotent : Obligations.ReadsAreIdempotent := by
  intro t u s s₁ h
  obtain ⟨⟨-, -, hext, hbpr1⟩, -⟩ := mrsFrame_of_exec h
  refine ⟨hbpr1, hext, ?_⟩
  rcases execMrs_next h with ⟨hr, rfl⟩ | ⟨c, v, hr, hv, rfl⟩
  · refine ⟨_, exec_mrs_virtual (s := (s.writeX t s.ext.icvBpr1).advance) u hr, fun ht hu => ?_⟩
    exact (readX_writeX_of_ne _ _ hu).trans (readX_writeX_of_ne _ _ ht).symm
  · refine ⟨_, exec_mrs_phys (s := (s.writeX t v).advance) u hr hv, fun ht hu => ?_⟩
    exact (readX_writeX_of_ne _ _ hu).trans (readX_writeX_of_ne _ _ ht).symm

/-- Settles O32: the `MSR` changes nothing that decides what the next access reaches. -/
theorem readAfterWriteSeesStoredValue : Obligations.ReadAfterWriteSeesStoredValue := by
  intro t u s s₁ c hc h
  rw [exec_msr_direct t hc] at h
  cases h
  rw [← written_toNat]
  exact mrsReads_of_direct u hc

/-- Writing back the value of a legal copy stores what it holds. -/
theorem writeBpr1_get_self {s : State} {c : Copy} (h : s.LegalCopy c) :
    (s.writeBpr1 c (s.bpr1.get c)).bpr1 = s.bpr1 := by
  have hsame : clampTo (minOf s.params c) (s.bpr1.get c) = s.bpr1.get c := by
    apply BitVec.eq_of_toNat_eq
    rw [clampTo_toNat (minOf_le s.params c), max_eq_left h.1]
  rw [State.writeBpr1_bpr1, hsame]
  cases c <;> rfl

/-- Settles O33: the value read is the stored field, which the clamp leaves. -/
theorem writingBackIsIdempotent : Obligations.WritingBackIsIdempotent := by
  intro t s s₁ c ht hc hlegal h
  rw [exec_mrs_direct t hc] at h
  cases h
  refine ⟨_, exec_msr_direct (s := (s.writeX t (s.bpr1Value c)).advance) t hc, ?_⟩
  rw [State.readX_advance, readX_writeX_of_ne _ _ ht, State.bpr1Value, binaryPoint_zext64]
  exact writeBpr1_get_self hlegal

/-! ### Frames -/

/-- Settles O34: a completed `MRS` is a write of one register and an advance of the pc. -/
theorem mrsChangesOnlyItsRegister : Obligations.MrsChangesOnlyItsRegister := fun _ _ _ => mrsFrame_of_exec

/-- Settles O35: one case for each thing an access can reach. -/
theorem msrChangesAtMostOneTarget : Obligations.MsrChangesAtMostOneTarget := by
  intro t s s' h
  obtain ⟨hframe, hpc⟩ := msrFrame_of_exec h
  refine ⟨hframe, hpc, ?_⟩
  rcases exec_msr_cases h with ⟨hr, rfl⟩ | ⟨c, hc, rfl⟩ | ⟨c, hr, hm, rfl⟩ | ⟨c, hr, hm, rfl⟩
  · exact .inr (.inr (.inr ⟨hr, rfl, rfl, rfl⟩))
  · exact .inl ⟨c, hc, rfl, fun d hd => Bpr1Cells.get_set_other _ _ hd⟩
  · exact .inr (.inr (.inl ⟨c, hr, hm, rfl, rfl, rfl, rfl⟩))
  · exact .inr (.inl ⟨c, hr, hm, rfl, rfl⟩)

/-! ### Invariants -/

/-- The copy a write reaches is legal after it (R16, R17). -/
theorem legalCopy_writeBpr1 (s : State) (c : Copy) (w : BinaryPoint) : (s.writeBpr1 c w).LegalCopy c := by
  have hw := w.isLt
  have hm := minOf_le s.params c
  rw [State.LegalCopy, writeBpr1_get_same, State.writeBpr1_params]
  omega

theorem legalCopy_congr {s s' : State} {c : Copy} (hp : s'.params = s.params) (hb : s'.bpr1.get c = s.bpr1.get c) :
    s'.LegalCopy c ↔ s.LegalCopy c := by
  rw [State.LegalCopy, State.LegalCopy, hp, hb]

theorem exec_keeps_legal {i : Instr} {s s' : State} {c : Copy} (hlegal : s.LegalCopy c) (h : exec i s = .next s') :
    s'.LegalCopy c := by
  obtain ⟨hp, -⟩ := sameSurroundings_of_exec h
  rcases bpr1_of_exec h with hb | ⟨d, w, -, hb⟩
  · exact (legalCopy_congr hp (by rw [hb])).2 hlegal
  · by_cases hcd : c = d
    · subst hcd
      exact (legalCopy_congr (s := s.writeBpr1 c w) hp (by rw [hb])).2 (legalCopy_writeBpr1 s c w)
    · exact (legalCopy_congr hp (by rw [hb, State.writeBpr1_bpr1, Bpr1Cells.get_set_other _ _ hcd])).2 hlegal

/-- Settles O37: a step leaves the copy, or stores a clamped value in it. -/
theorem stepsKeepCopiesLegal : Obligations.StepsKeepCopiesLegal := by
  intro s s' c hlegal h
  obtain ⟨_, he⟩ := exec_of_step h
  exact exec_keeps_legal hlegal he

/-- What every step keeps of the parameters and the copies holds of every state reached without a reset. -/
theorem legalCopy_of_reaches {s s' : State} {c : Copy} (hlegal : s.LegalCopy c) (h : Reaches s s') :
    s'.LegalCopy c := by
  induction h with
  | refl => exact hlegal
  | step _ next ih => exact stepsKeepCopiesLegal _ _ c ih next
  | outside _ params bpr1 ih => exact (legalCopy_congr params (by rw [bpr1])).2 ih

/-- Settles O36: the write leaves the copy legal, which is kept; and a reset may draw 0. -/
theorem writtenCopyStaysLegal : Obligations.WrittenCopyStaysLegal := by
  refine ⟨fun t s s₁ s₂ c hc h hreach => ?_, fun s c hex hpos => ⟨fun _ => 0, fun hlegal => ?_⟩⟩
  · rw [exec_msr_direct t hc] at h
    cases h
    rw [← minOf_eq_minimum]
    exact legalCopy_of_reaches (s := (s.writeBpr1 c _).advance) (legalCopy_writeBpr1 s c _) hreach
  · obtain ⟨hmin, -⟩ := hlegal
    rw [applyReset_get, if_pos hex, State.applyReset_params, minOf_eq_minimum] at hmin
    exact absurd hmin (Nat.not_le.2 hpos)

/-- Settles O38: a step leaves the parameters and the inputs, and so does a reset. -/
theorem el3OnlyIfImplementedIsKept : Obligations.El3OnlyIfImplementedIsKept := by
  refine fun s h => ⟨fun s' hs => ?_, fun _ => h⟩
  obtain ⟨_, he⟩ := exec_of_step hs
  obtain ⟨hp, -, -, hc⟩ := sameSurroundings_of_exec he
  rw [State.El3OnlyIfImplemented, hp, hc]
  exact h

/-- Settles O39: the reset parameters implement EL3. -/
theorem el3OnlyIfImplementedAtReset : Obligations.El3OnlyIfImplementedAtReset := fun _ => rfl

/-- Settles O42: with `SCR_EL3.NS` at 1 a write below EL3 reaches the Non-secure copy, and is clamped. -/
theorem nonSecureWritesStayAboveMinimum : Obligations.NonSecureWritesStayAboveMinimum := by
  intro s s' h3 hel hns hstep hne
  obtain ⟨_, he⟩ := exec_of_step hstep
  rcases bpr1_of_exec he with hb | ⟨c, w, ⟨hres, -⟩, hb⟩
  · exact absurd hb hne
  · obtain rfl : c = .ns := (eq_physicalCopy hres (el_ne_el3 hel)).trans (physicalCopy_nonSecure h3 hns)
    rw [hb]
    exact (legalCopy_writeBpr1 s .ns w).1

/-! ### Isolation -/

/-- The copy `c` has no part in what `f` answers at `s`: it keeps its value, and with the value `v` in it the answer
is the same. -/
def Untouched (s : State) (c : Copy) (v : BinaryPoint) (f : State → Outcome) : Prop :=
  match f s with
  | .next s' => s'.bpr1.get c = s.bpr1.get c ∧ f (s.setBpr1 c v) = .next (s'.setBpr1 c v)
  | .fault r => f (s.setBpr1 c v) = .fault r
  | .refused r => f (s.setBpr1 c v) = .refused r

section
variable {s : State} {c d : Copy} {v : BinaryPoint}

theorem set_set_comm (b : Bpr1Cells) (h : d ≠ c) (w : BinaryPoint) : (b.set c v).set d w = (b.set d w).set c v := by
  cases c <;> cases d <;> simp_all [Bpr1Cells.set]

theorem writeBpr1_setBpr1 (h : d ≠ c) (w : BinaryPoint) :
    (s.setBpr1 c v).writeBpr1 d w = (s.writeBpr1 d w).setBpr1 c v := by
  simp only [State.writeBpr1, State.setBpr1, set_set_comm _ h]

theorem physRead_setBpr1 (h : physMode s.params s.ctl d = .direct → d ≠ c) :
    physRead (s.setBpr1 c v) d = physRead s d := by
  unfold physRead
  rw [State.setBpr1_params, State.setBpr1_ctl, State.setBpr1_ext]
  split <;> rename_i hm
  · rw [State.bpr1Value, State.setBpr1_bpr1, Bpr1Cells.get_set_other _ _ (h hm)]
    rfl
  all_goals rfl

/-- An access reaches no stored field but that of the copy it names, to read it or to write it. -/
theorem exec_next_setBpr1 (hn : ¬ReachesCell s c) {i : Instr} {s' : State} (h : exec i s = .next s') :
    s'.bpr1.get c = s.bpr1.get c ∧ exec i (s.setBpr1 c v) = .next (s'.setBpr1 c v) := by
  have hne : ∀ {d}, ReachesCell s d → d ≠ c := fun hd hdc => hn (hdc ▸ hd)
  cases i with
  | mrs t =>
    rcases execMrs_next h with ⟨hr, rfl⟩ | ⟨d, w, hr, hw, rfl⟩
    · exact ⟨rfl, exec_mrs_virtual (s := s.setBpr1 c v) t hr⟩
    · refine ⟨rfl, exec_mrs_phys (s := s.setBpr1 c v) t hr ?_⟩
      rw [physRead_setBpr1 fun hm => hne ⟨hr, hm⟩, hw]
  | msr t =>
    rcases exec_msr_cases h with ⟨hr, rfl⟩ | ⟨d, hd, rfl⟩ | ⟨d, hr, hm, rfl⟩ | ⟨d, hr, hm, rfl⟩
    · exact ⟨rfl, exec_msr_virtual (s := s.setBpr1 c v) t hr⟩
    · refine ⟨Bpr1Cells.get_set_other _ _ (hne hd).symm, ?_⟩
      rw [exec_msr_direct (s := s.setBpr1 c v) t hd, writeBpr1_setBpr1 (hne hd)]
      rfl
    · exact ⟨rfl, exec_msr_phys (s := s.setBpr1 c v) t hr (physWrite_of_alias (s := s.setBpr1 c v) hm _)⟩
    · exact ⟨rfl, exec_msr_phys (s := s.setBpr1 c v) t hr (physWrite_of_mirror (s := s.setBpr1 c v) hm _)⟩

theorem exec_untouched (hn : ¬ReachesCell s c) (i : Instr) : Untouched s c v (exec i) := by
  unfold Untouched
  split <;> rename_i h
  · exact exec_next_setBpr1 hn h
  · exact (exec_fault_congr (s := s) (s' := s.setBpr1 c v) i i rfl rfl _).1 h
  · exact (exec_refused_congr (s := s) (s' := s.setBpr1 c v) i i rfl rfl _).1 h

/-- No copy has a part in the fetch and the decoding, so a step is isolated as far as its instruction is. -/
theorem step_untouched (hn : ¬ReachesCell s c) : Untouched s c v step := by
  have hset : (s.setBpr1 c v).fetch = s.fetch := rfl
  cases hf : s.fetch with
  | word w =>
    simp only [Untouched, step, hset, hf]
    cases hd : decode w with
    | instr i =>
      simp only [runWord_of_decode hd]
      exact exec_untouched hn i
    | rejected r => simp only [runWord_of_rejected hd]
  | ended => simp only [Untouched, step, hset, hf]
  | outside => simp only [Untouched, step, hset, hf]
  | misaligned => simp only [Untouched, step, hset, hf]

/-- R13: an access names a copy that exists. -/
theorem copyExists_of_resolve (h3only : s.El3OnlyIfImplemented) (h : resolve s.params s.ctl = .phys c) :
    copyExists s.params c = true := by
  obtain ⟨-, hbanked, hunbanked⟩ := resolve_phys_copy h
  cases h3 : s.params.haveEL3 with
  | true =>
    obtain rfl := hbanked (.inl h3)
    cases hns : s.ctl.scrEl3Ns <;> simp [bankedCopy, hns, copyExists, h3]
  | false =>
    obtain rfl := hunbanked ⟨h3, fun hel => by simp [h3only hel] at h3⟩
    simp [copyExists, h3]

end

/-- Settles O40: an access names a copy that exists. -/
theorem absentCopiesStayUntouched : Obligations.AbsentCopiesStayUntouched := by
  intro s c v h3only habsent
  have hn : ¬ReachesCell s c := fun hc => by simp [copyExists_of_resolve h3only hc.1] at habsent
  exact step_untouched hn

/-- Settles O41: with EL3 an access names the copy `SCR_EL3.NS` selects, and no other. -/
theorem otherSecurityStateIsIsolated : Obligations.OtherSecurityStateIsIsolated := by
  intro s c v h3 _ hother
  have hn : ¬ReachesCell s c := by
    rintro ⟨hres, -⟩
    obtain ⟨-, hbanked, -⟩ := resolve_phys_copy hres
    have hc := hbanked (.inl h3)
    cases hns : s.ctl.scrEl3Ns <;> simp [hother, bankedCopy, hns] at hc
  exact step_untouched hn

end Sys2Proof.Claims
end
